-- ==== Sys2Proof/Word.lean ====
section
/-! DEFINITION. The words of PWM-RAMP: bytes, byte strings, slot numbers and command words. -/

namespace Sys2Proof

/-- One byte of a name or of a register (00_scope.md section 7). -/
abbrev Byte := BitVec 8

/-- A byte string: a pin identifier, a timer-name hint or a channel name (R21, R75, R83). -/
abbrev Bytes := List Byte

/-- The 4-bit number of a channel slot, as the `SLOT` field and the tick port carry it (R70, R80). -/
abbrev SlotNum := BitVec 4

/-- The 32-bit command word (R70). -/
abbrev CmdWord := BitVec 32

end Sys2Proof
end

