-- ==== Sys2Proof/Config.lean ====
section
/-! DEFINITION. What an implementation fixes: the parameters of R5 to R10, the constants of R10, and the
values that the spec leaves free. Nothing here changes while the block runs. -/

namespace Sys2Proof

/-- `STRMAX`, the longest string of an operand register and of a name in `CAP` (R10). -/
abbrev strMax : Nat := 15

/-- `DEFAULT_FREQ`, in hertz (R10). -/
abbrev defaultFreq : Rat := 50

/-- `US_PER_S`, microseconds per second (R10). -/
abbrev usPerS : Rat := 1000000

/-- One candidate of a pin's list in `CAP`: an alternate function and a timer-channel name (R5). -/
structure CapEntry where
  altFunction : Int
  name : Bytes
deriving DecidableEq, Repr

/-- One address of the capability space: a pin identifier and its ordered list (R5). -/
structure CapPin where
  pin : Bytes
  entries : List CapEntry
deriving DecidableEq, Repr

/-- The ranges that R5 asks of an entry. (R83 also asks for timer and channel numbers below 2^32: a
name of at most 15 bytes has at most 9 digits.) -/
def CapEntry.wf (e : CapEntry) : Bool :=
  decide (-2147483648 ≤ e.altFunction) && decide (e.altFunction < 2147483648) &&
    decide (1 ≤ e.name.length) && decide (e.name.length ≤ strMax)

/-- The ranges that R5 asks of a pin's row. -/
def CapPin.wf (row : CapPin) : Bool :=
  decide (1 ≤ row.pin.length) && decide (row.pin.length ≤ strMax) && row.entries.all CapEntry.wf

/-- The build-time parameters that are plain data: the capability table `CAP` (R5) and
`TIMER_EXCLUSIVE` (R9). State carries them, and no step writes them (log 1). -/
structure Board where
  cap : List CapPin
  timerExclusive : Bool
deriving DecidableEq, Repr, Inhabited

/-- The capability table is within the ranges of R5. -/
def Board.wf (b : Board) : Bool := b.cap.all CapPin.wf

/-- The table less its rows outside the ranges of R5, of which the spec says nothing (93 U15). A table
that meets R5 is unchanged. -/
def Board.inRange (b : Board) : Board := { b with cap := b.cap.filter CapPin.wf }

/-- The level of a digital output pin (R190). -/
inductive PinLevel where
  | low
  | high
deriving DecidableEq, Repr, Inhabited

/-- Every parameter of the block and every free value, as one record. A statement about
`Config.platform`, of which nothing is known, is a statement for every implementation. -/
structure Config where
  /-- `CAP` and `TIMER_EXCLUSIVE`, fixed before reset (R5, R9, R241). -/
  board : Board
  /-- `NSLOTS` less one: R6 admits 1 to 16 slots (log 2). -/
  extraSlots : Fin 16
  /-- `BASE` divided by 256: R52 makes `BASE` a multiple of 256 (log 12). -/
  basePage : Nat
  /-- `QUANT(t, f) - f`. R7 assumes of `QUANT` that it is never below the requested frequency, and
  nothing more (log 3). -/
  quantExcess : Nat → Rat → ℚ≥0
  /-- Which neighbour `ROUND` takes at a tie. R8 assumes of `ROUND` that it is nearest (log 4). -/
  tieUp : Rat → Bool
  /-- FREE VALUE: the pattern that `RESULT` receives when `unfix` of the returned integer is not
  defined, for the n-th such use (00_scope.md section 7, R77; log 5). -/
  freePattern : Nat → BitVec 64
  /-- FREE VALUE: the level of an HBridge's direction pin where the spec gives none, for each HBridge
  and its n-th such use (R193, 93 U9; log 20). -/
  freeLevel : Nat → Nat → PinLevel
  /-- FREE VALUE: at speed 0 in `RUN_BRAKE` mode, whether the reverse channel is the one called "on",
  which is written second, for each HBridge and its n-th such use (R195; log 27). -/
  freeReverseOn : Nat → Nat → Bool
deriving Inhabited

/-- The implementation at hand: an uninterpreted constant. -/
opaque Config.platform : Config

end Sys2Proof
end

