-- ==== Sys2Proof/Syntax.lean ====
section
/-! DEFINITION. The instructions of PWM-RAMP: one constructor per row of spec/opcode_table.json. -/

namespace Sys2Proof

/-- The seven commands of R71 and the tick event of R80. The operands of a command stand in the
`ARG_*` registers and are read when it runs (R70), so that a command word carries only its slot. -/
inductive Instr where
  /-- `RESOLVE pin, hint` (R109). It names no slot (R72). -/
  | resolve
  /-- `CONSTRUCT slot, pin, hint, length, freq` (R120). -/
  | construct (slot : SlotNum)
  /-- `DESTROY slot` (R129). -/
  | destroy (slot : SlotNum)
  /-- `DUTY_SET slot, p` (R140). -/
  | dutySet (slot : SlotNum)
  /-- `DUTY_GET slot` (R141). -/
  | dutyGet (slot : SlotNum)
  /-- `PW_SET slot, w, r` (R152 when r = 0, R153 when r > 0). -/
  | pwSet (slot : SlotNum)
  /-- `PW_GET slot` (R150). -/
  | pwGet (slot : SlotNum)
  /-- `TICK slot`: a strobe on the tick port (R80, R156). -/
  | tick (slot : SlotNum)
deriving DecidableEq, Repr

end Sys2Proof
end

