-- ==== Sys2Proof/WellFormed.lean ====
section
/-! DEFINITION. Which instructions are well formed on a block with a given number of slots. -/

namespace Sys2Proof

/-- R72: every command but `RESOLVE` names a slot below `NSLOTS`. `RESOLVE` has no slot, and a tick
for a slot number of `NSLOTS` or more is a strobe without effect, not an ill-formed one (R80). -/
def Instr.wellFormed (nslots : Nat) : Instr → Bool
  | .resolve => true
  | .construct slot => slot.toNat < nslots
  | .destroy slot => slot.toNat < nslots
  | .dutySet slot => slot.toNat < nslots
  | .dutyGet slot => slot.toNat < nslots
  | .pwSet slot => slot.toNat < nslots
  | .pwGet slot => slot.toNat < nslots
  | .tick _ => true

end Sys2Proof
end

