-- ==== Sys2Proof/Decode.lean ====
section
/-! DEFINITION. Decoding and encoding of what arrives at the two ports: command words (R70 to R73,
R79) and tick strobes (R80). -/

namespace Sys2Proof

/-- What a port delivers to the decoder: a word written to `CMD` (R70) or a strobe on the tick port
with its `TICK_SLOT` (R80). -/
inductive PortWord where
  | command (w : CmdWord)
  | strobe (slot : SlotNum)
deriving DecidableEq, Repr

/-- Why a word is not a command (R79). -/
inductive DecodeError where
  /-- `OP` is 0x0 or 0x8 to 0xF. -/
  | reservedOpcode (op : BitVec 4)
  /-- A bit of `ZERO` is set (R73). -/
  | reservedBits
  /-- `RESOLVE` with `SLOT` not 0 (R72). -/
  | resolveSlot (slot : SlotNum)
  /-- Another opcode with `SLOT >= NSLOTS` (R72). -/
  | slotOutOfRange (slot : SlotNum)
deriving DecidableEq, Repr

/-- Field `OP`, bits 31:28 (R70). -/
def CmdWord.op (w : CmdWord) : BitVec 4 := w.extractLsb' 28 4

/-- Field `SLOT`, bits 27:24 (R70). -/
def CmdWord.slot (w : CmdWord) : SlotNum := w.extractLsb' 24 4

/-- Field `ZERO`, bits 23:0 (R70). -/
def CmdWord.zero (w : CmdWord) : BitVec 24 := w.extractLsb' 0 24

/-- The opcode map of R71 over the fields of R70, for the largest slot array (SLOT up to 15). -/
def decodeCommand (w : CmdWord) : Except DecodeError Instr :=
  if CmdWord.zero w ≠ 0 then .error .reservedBits
  else
    match (CmdWord.op w).toNat with
    | 1 => if CmdWord.slot w = 0 then .ok .resolve else .error (.resolveSlot (CmdWord.slot w))
    | 2 => .ok (.construct (CmdWord.slot w))
    | 3 => .ok (.destroy (CmdWord.slot w))
    | 4 => .ok (.dutySet (CmdWord.slot w))
    | 5 => .ok (.dutyGet (CmdWord.slot w))
    | 6 => .ok (.pwSet (CmdWord.slot w))
    | 7 => .ok (.pwGet (CmdWord.slot w))
    | _ => .error (.reservedOpcode (CmdWord.op w))

/-- The instruction a port word stands for, whatever `NSLOTS` (up to 16 slots). -/
def decode : PortWord → Except DecodeError Instr
  | .command w => decodeCommand w
  | .strobe slot => .ok (.tick slot)

/-- The slot that an instruction names (0 for `RESOLVE`, which names none). -/
def Instr.slot : Instr → SlotNum
  | .resolve => 0
  | .construct slot => slot
  | .destroy slot => slot
  | .dutySet slot => slot
  | .dutyGet slot => slot
  | .pwSet slot => slot
  | .pwGet slot => slot
  | .tick slot => slot

/-- The decoder of a block with `nslots` slots: R79 also shuts out a slot number of `NSLOTS` or more. -/
def decodeFor (nslots : Nat) (p : PortWord) : Except DecodeError Instr :=
  match decode p with
  | .error e => .error e
  | .ok i => if i.wellFormed nslots then .ok i else .error (.slotOutOfRange i.slot)

/-- The command word with the given `OP` and `SLOT`, `ZERO` clear (R70). -/
def commandWord (op : BitVec 4) (slot : SlotNum) : CmdWord := op ++ slot ++ 0#24

/-- The encoder: the word or strobe of an instruction, from the encodings of R71 and R80. -/
def encode : Instr → PortWord
  | .resolve => .command (commandWord 0x1 0)
  | .construct slot => .command (commandWord 0x2 slot)
  | .destroy slot => .command (commandWord 0x3 slot)
  | .dutySet slot => .command (commandWord 0x4 slot)
  | .dutyGet slot => .command (commandWord 0x5 slot)
  | .pwSet slot => .command (commandWord 0x6 slot)
  | .pwGet slot => .command (commandWord 0x7 slot)
  | .tick slot => .strobe slot

/-- A row's bits as the opcode table numbers them, brought to the port they belong to: 32 bits are a
command word; the 4-bit pattern of `TICK`, in at most one byte, is a strobe (log 15). -/
def tableWord (nbits w : Nat) : Option PortWord :=
  if nbits ≤ 8 then
    if w < 16 then some (.strobe (BitVec.ofNat 4 w)) else none
  else if w < 4294967296 then some (.command (BitVec.ofNat 32 w)) else none

/-- The instruction the decoder reads from a row's bits, on a block with all 16 slots (log 14). -/
def decodeTableWord (nbits w : Nat) : Option Instr :=
  match tableWord nbits w with
  | none => none
  | some p => (decodeFor 16 p).toOption

end Sys2Proof
end

