-- ==== Sys2Proof/Machine/State.lean ====
section
/-! DEFINITION. The state of PWM-RAMP (10_state.md), why a step can stop, and the machine after reset. -/

namespace Sys2Proof.Machine

/-- `ramp = Some{target, step}` of R25: microseconds, and microseconds per tick. -/
structure Ramp where
  target : Rat
  step : Rat
deriving DecidableEq, Repr

/-- One live channel (R20 to R25). -/
structure Channel where
  /-- R21. -/
  pinId : Bytes
  /-- The timer index (R22). -/
  timerId : Nat
  /-- The channel index (R22). -/
  channelId : Nat
  /-- R22, R84. -/
  inverted : Bool
  /-- Microseconds, exact (R11, R23). -/
  periodUs : Rat
  /-- The current pulse width in microseconds, exact (R11, R24). -/
  cur : Rat
  /-- `none` is `Idle`, `some` is `Ramping` (R25, R34); it is also the callback registration (R31). -/
  ramp : Option Ramp
deriving DecidableEq, Repr

/-- What arrives at the block's ports: a host access of the register space at an offset from `BASE`
(R52, R54) and a strobe on the tick port (R80). -/
inductive PortEvent where
  | read (offset : BitVec 8) (width : Nat)
  | write (offset : BitVec 8) (width : Nat) (data : BitVec width)
  | strobe (slot : SlotNum)
deriving DecidableEq, Repr

/-- The document's four error kinds; the list is closed (R210). -/
inductive ErrorKind where
  | unsupportedPin
  | timerNotFound
  | channelInUse
  | motorIndex
deriving DecidableEq, Repr

/-- Faults of the program that drives the block. Each is SAFE: the spec gives the read no value. -/
inductive Fault where
  /-- A read of `CMD`, raised by the bus read: no defined value (R52, 93 U12). Safe. -/
  | readWriteOnly
  /-- A read of a reserved offset, raised by the bus read: no defined value (R52, 93 U12). Safe. -/
  | readReserved
  /-- A read of `RESULT` before the first `DUTY_GET` or `PW_GET`, or of `RES_*` before the first
  successful `RESOLVE`, raised by the bus read: R38 gives this stop ("a fault of the reading program,
  not as a value"), and so do 93 U7 and U8. Safe. -/
  | readUnwritten
  /-- `HB_GO_GET` before the first `HB_GO_SET` (R196, 93 U10). Safe. -/
  | lastSpeedUnwritten
deriving DecidableEq, Repr

/-- Refusals: what the spec gives no meaning (R226). Each is SAFE: the run is marked refused, and no
claim speaks of it. -/
inductive Refusal where
  /-- An instruction without a meaning in this model; raised by exec's arms only. Safe. -/
  | notModelled (mnemonic : String)
  /-- A word that is not a command; raised by the step and by a command on a slot number of `NSLOTS`
  or more (R79). Safe. -/
  | invalidWord (e : DecodeError)
  /-- A malformed string register read by `RESOLVE` or `CONSTRUCT` (R75). Safe. -/
  | malformedString
  /-- A register access that is not whole-register, raised by the bus (R54). Safe. -/
  | partialAccess
  /-- `RESOLVE` or `CONSTRUCT` with an empty pin identifier (R109, R128). Safe. -/
  | emptyPin
  /-- `CONSTRUCT` on a slot that is not `Empty` (R128). Safe. -/
  | slotLive
  /-- `CONSTRUCT` with a negative length (R128). Safe. -/
  | negativeLength
  /-- `CONSTRUCT` with a negative frequency (R128). Safe. -/
  | negativeFreq
  /-- `CONSTRUCT` on a pin that a live channel has (R128). Safe. -/
  | pinBound
  /-- `DESTROY`, `DUTY_SET`, `DUTY_GET`, `PW_SET` or `PW_GET` on an `Empty` slot (R226). Safe. -/
  | slotEmpty
  /-- `PW_SET` with a negative ramp time (R161). Safe. -/
  | negativeRamp
  /-- `SERVO_CALIBRATE` that would leave `pulse_min > pulse_max` (R182). Safe. -/
  | calibrationRange
  /-- `SERVO_ANGLE_GET` with `pulse_angle_90 = 0` (R184). Safe. -/
  | zeroAngleReference
  /-- `SERVO_SPEED_GET` with `pulse_speed_100 = 0` (R186). Safe. -/
  | zeroSpeedReference
deriving DecidableEq, Repr

/-- The whole state. The fields up to `resInverted` are the spec's; `board` holds two parameters of
the spec that no step writes (log 1); the last five are the model's own (logs 6, 7, 8, 10). -/
structure State where
  /-- `slot[0 .. NSLOTS-1]` (R20); `NSLOTS` is the length (R6, log 2). -/
  slots : List (Option Channel)
  /-- `pin_af` (R30), in the canonical form of `PinAf.wf` (log 17). -/
  pinAf : List (Bytes × Int)
  /-- The command word last written (R32, log 9). -/
  cmd : BitVec 32
  /-- R32, R35, R78. -/
  status : BitVec 32
  /-- R32, R77. -/
  result : BitVec 64
  /-- R32, R74. -/
  argValue : BitVec 64
  /-- R32, R74. -/
  argRamp : BitVec 64
  /-- R32, R74, R76. -/
  argLength : BitVec 64
  /-- R32, R74, R76. -/
  argFreq : BitVec 64
  /-- R32, R75. -/
  argPin : BitVec 128
  /-- R32, R75, R76. -/
  argHint : BitVec 128
  /-- R32. -/
  resAf : BitVec 32
  /-- R32. -/
  resTimer : BitVec 32
  /-- R32. -/
  resChannel : BitVec 32
  /-- R32. -/
  resInverted : BitVec 32
  /-- `CAP` and `TIMER_EXCLUSIVE` (R5, R9, R50, R51). -/
  board : Board
  /-- The model's: `RESULT` has been written since reset (R38). -/
  resultDefined : Bool
  /-- The model's: the `RES_*` registers have been written since reset (R38). -/
  resDefined : Bool
  /-- The model's: the port events still to come, the next one first (R57). -/
  inbox : List PortEvent
  /-- The model's: what the last bus read delivered, zero extended (R55). -/
  readData : BitVec 128
  /-- The model's: how many free values have been used. -/
  freeIndex : Nat
deriving DecidableEq, Repr

/-- The state after reset on an implementation `c` (R38, R240). `CMD`, `RESULT` and the `RES_*`
registers have no reset value in the spec: 0 is a DESIGN CHOICE (logs 8, 9). `CAP` is fixed before
reset (R241) and within the ranges of R5. -/
def State.resetOn (c : Config) : State where
  slots := List.replicate (c.extraSlots.val + 1) none
  pinAf := []
  cmd := 0
  status := 0
  result := 0
  argValue := 0
  argRamp := 0
  argLength := 0
  argFreq := 0
  argPin := 0
  argHint := 0
  resAf := 0
  resTimer := 0
  resChannel := 0
  resInverted := 0
  board := c.board.inRange
  resultDefined := false
  resDefined := false
  inbox := []
  readData := 0
  freeIndex := 0

/-- The state after reset (R38, R240). -/
def State.reset : State := State.resetOn Config.platform

end Sys2Proof.Machine
end

