-- ==== Sys2Proof/Machine/Flags.lean ====
section
/-! DEFINITION. The two things in the place of flags (R35): `STATUS` and the predicate `RAMPING(i)`. -/

namespace Sys2Proof.Machine

/-- The code of an error kind (R78, R210). -/
def ErrorKind.code : ErrorKind → BitVec 32
  | .unsupportedPin => 1
  | .timerNotFound => 2
  | .channelInUse => 3
  | .motorIndex => 4

/-- `reg[STATUS] <- v`. -/
def State.setStatus (v : BitVec 32) (s : State) : State := { s with status := v }

/-- A command that succeeds leaves `STATUS` = 0 (R35, R78). -/
def State.succeed (s : State) : State := s.setStatus 0

/-- The channel in slot number `i`, if slot `i` exists and is live. -/
def State.channelAt (s : State) (i : Nat) : Option Channel := (s.slots[i]?).join

/-- `RAMPING(i)`: slot `i` holds a channel whose `ramp` is `Some` (R35). It is the callback
registration (R31), the enable of the slot's tick interrupt (R219) and the enabling condition of
`TICK(i)` (R156). -/
def State.ramping (s : State) (i : Nat) : Bool :=
  match s.channelAt i with
  | some ch => ch.ramp.isSome
  | none => false

end Sys2Proof.Machine
end

