-- ==== Sys2Proof/Machine/Ops.lean ====
section
/-! DEFINITION. The named operations over rationals, slots, the pin multiplexer record and the result
registers, and the one operation by which a command reports an error (R215). -/

namespace Sys2Proof.Machine

/-- How a meaning ends. -/
abbrev Result := Host.Outcome State Fault Refusal

/-- An outcome continued: the continuation runs on what a next state holds. -/
def andThen {α β : Type} (r : Host.Outcome α Fault Refusal) (k : α → Host.Outcome β Fault Refusal) :
    Host.Outcome β Fault Refusal :=
  match r with
  | .next a => k a
  | .fault f => .fault f
  | .refused e => .refused e

/-! ### Rational arithmetic (R11, 00_scope.md section 7) -/

/-- `clamp(x, lo, hi)`. -/
def clamp (x lo hi : Rat) : Rat := if x < lo then lo else if hi < x then hi else x

/-- `abs(x)`. -/
def absQ (x : Rat) : Rat := if x < 0 then -x else x

/-- `ROUND(x)` (R8): the nearest integer; at a tie either neighbour, as the uninterpreted `tieUp` has
it (log 4). -/
def roundQ (c : Config) (x : Rat) : Int :=
  let low := x.floor
  let above := x - low
  if above < 1 / 2 then low
  else if 1 / 2 < above then low + 1
  else if c.tieUp x then low + 1
  else low

/-- `QUANT(t, f)` (R7): the realised frequency of timer `t`, never below the requested one (log 3). -/
def quantQ (c : Config) (timer : Nat) (freq : Rat) : Rat := freq + (c.quantExcess timer freq).val

/-! ### Slots (R20) -/

/-- What a slot number finds. -/
inductive SlotView where
  /-- A slot number of `NSLOTS` or more. -/
  | absent
  | empty
  | live (ch : Channel)
deriving DecidableEq, Repr

/-- `slot[i]`. -/
def State.view (s : State) (i : SlotNum) : SlotView :=
  match s.slots[i.toNat]? with
  | none => .absent
  | some none => .empty
  | some (some ch) => .live ch

/-- `slot[i] <- x`. -/
def State.setSlot (i : SlotNum) (x : Option Channel) (s : State) : State :=
  { s with slots := s.slots.set i.toNat x }

/-- A command on a slot that must be live: refused on an `Empty` slot (R226) and on a slot number of
`NSLOTS` or more (R72). -/
def onLive (i : SlotNum) (s : State) (k : Channel → Result) : Result :=
  match s.view i with
  | .absent => .refused (.invalidWord (.slotOutOfRange i))
  | .empty => .refused .slotEmpty
  | .live ch => k ch

/-- The live channels, in slot order. -/
def State.live (s : State) : List Channel := s.slots.filterMap id

/-- Some live channel has this pin (R128). -/
def State.pinBound (s : State) (pin : Bytes) : Bool := s.live.any fun ch => ch.pinId == pin

/-- The claim relation, derived from the slots (R29). -/
def State.claimed (s : State) (timer channel : Nat) : Bool :=
  s.live.any fun ch => ch.timerId == timer && ch.channelId == channel

/-- `conflict(t, c, period)` of R120: the pair is claimed (R124), or the timer cannot be shared (R125). -/
def State.conflict (s : State) (timer channel : Nat) (period : Rat) : Bool :=
  s.live.any fun ch => ch.timerId == timer &&
    (s.board.timerExclusive || ch.channelId == channel || ch.periodUs != period)

/-! ### The pin multiplexer record (R30) -/

/-- The order of pin identifiers in the canonical form of `pin_af`: byte by byte, a shorter string
before a longer one that continues it. -/
def bytesLt : Bytes → Bytes → Bool
  | [], [] => false
  | [], _ :: _ => true
  | _ :: _, [] => false
  | a :: as, b :: bs => if a = b then bytesLt as bs else decide (a.toNat < b.toNat)

/-- `pin_af[p]`, `none` where it is not defined. -/
def pinAfGet : List (Bytes × Int) → Bytes → Option Int
  | [], _ => none
  | (q, a) :: rest, p => if q = p then some a else pinAfGet rest p

/-- `pin_af[p] <- a`, in canonical form. -/
def pinAfSet (p : Bytes) (a : Int) : List (Bytes × Int) → List (Bytes × Int)
  | [] => [(p, a)]
  | (q, b) :: rest =>
    if p = q then (p, a) :: rest
    else if bytesLt p q then (p, a) :: (q, b) :: rest
    else (q, b) :: pinAfSet p a rest

/-- The canonical form of `pin_af`: strictly rising pin identifiers, so that equal records are equal
lists (log 17). -/
abbrev PinAf.wf (m : List (Bytes × Int)) : Prop := m.Pairwise fun x y => bytesLt x.1 y.1 = true

/-- `pin_af[p] <- a` on the state. -/
def State.setPinAf (p : Bytes) (a : Int) (s : State) : State := { s with pinAf := pinAfSet p a s.pinAf }

/-! ### Results -/

/-- `unfix(q)`, where it is defined (00_scope.md section 7). -/
def unfix (q : Rat) : Option (BitVec 64) :=
  let scaled := q * 65536
  if scaled.den = 1 ∧ -9223372036854775808 ≤ scaled.num ∧ scaled.num < 9223372036854775808 then
    some (BitVec.ofInt 64 scaled.num)
  else none

/-- `reg[RESULT] <- unfix(n)` (R77). Where `unfix(n)` is not defined the register receives a free
value (log 5). -/
def State.returnInt (c : Config) (n : Int) (s : State) : State :=
  match unfix n with
  | some v => { s with result := v, resultDefined := true }
  | none => { s with result := c.freePattern s.freeIndex, resultDefined := true,
                     freeIndex := s.freeIndex + 1 }

/-- A resolution result (R100, R108). -/
structure Resolved where
  altFunction : Int
  timerIndex : Nat
  channelIndex : Nat
  inverted : Bool
deriving DecidableEq, Repr

/-- The four `RES_*` registers receive a resolution result (R109). -/
def State.setResolved (r : Resolved) (s : State) : State :=
  { s with resAf := BitVec.ofInt 32 r.altFunction, resTimer := BitVec.ofNat 32 r.timerIndex,
           resChannel := BitVec.ofNat 32 r.channelIndex,
           resInverted := if r.inverted then 1 else 0, resDefined := true }

/-! ### Taking an error (R215) -/

/-- `raise E`: `STATUS` receives the code, and nothing else changes. There is no trap vector, no
saved state, no change of mode and no handler, and so no return (R215). -/
def State.raise (e : ErrorKind) (s : State) : State := s.setStatus e.code

end Sys2Proof.Machine
end

