-- ==== Sys2Proof/Machine/Bus.lean ====
section
/-! DEFINITION. The register space and what a port event asks of the block (20_memory.md R52 to R55,
30_encoding.md R80). -/

namespace Sys2Proof.Machine

/-- The thirteen registers of the command port (R32). -/
inductive Reg where
  | cmd
  | status
  | result
  | argValue
  | argRamp
  | argLength
  | argFreq
  | argPin
  | argHint
  | resAf
  | resTimer
  | resChannel
  | resInverted
deriving DecidableEq, Repr

/-- The offset of a register from `BASE`, in bytes (R52). -/
def Reg.offset : Reg → BitVec 8
  | .cmd => 0x00
  | .status => 0x04
  | .result => 0x08
  | .argValue => 0x10
  | .argRamp => 0x18
  | .argLength => 0x20
  | .argFreq => 0x28
  | .argPin => 0x30
  | .argHint => 0x40
  | .resAf => 0x50
  | .resTimer => 0x54
  | .resChannel => 0x58
  | .resInverted => 0x5C

/-- The width of a register, in bits (R32, R52). -/
def Reg.width : Reg → Nat
  | .cmd => 32
  | .status => 32
  | .result => 64
  | .argValue => 64
  | .argRamp => 64
  | .argLength => 64
  | .argFreq => 64
  | .argPin => 128
  | .argHint => 128
  | .resAf => 32
  | .resTimer => 32
  | .resChannel => 32
  | .resInverted => 32

/-- The registers in the order of the map (R52). -/
def Reg.all : List Reg :=
  [.cmd, .status, .result, .argValue, .argRamp, .argLength, .argFreq, .argPin, .argHint, .resAf,
   .resTimer, .resChannel, .resInverted]

/-- The register that starts at an offset, if one does (R52). -/
def Reg.startingAt (offset : BitVec 8) : Option Reg := Reg.all.find? fun r => r.offset == offset

/-- The offsets of R52 with no register behind them: 0x60 to 0xFF. -/
def reservedOffset (offset : BitVec 8) : Bool := 0x60 ≤ offset.toNat

/-- `BASE`, a multiple of 256 that the platform chooses (R52). -/
def baseAddress (c : Config) : Nat := 256 * c.basePage

/-- The offset that a bus address reaches in the block's window of 256 bytes, if it is in it (R52;
log 12). -/
def busOffset (c : Config) (address : Nat) : Option (BitVec 8) :=
  if baseAddress c ≤ address ∧ address < baseAddress c + 256 then
    some (BitVec.ofNat 8 (address - baseAddress c))
  else none

/-- What a register reads as, zero extended to 128 bits. `CMD` has no value to read (R52), and the
result registers have none before their first write: R38, 93 U7 and U8 say that the read is a fault of
the reading program, not a value. -/
def State.readReg (s : State) : Reg → Except Fault (BitVec 128)
  | .cmd => .error .readWriteOnly
  | .status => .ok (s.status.setWidth 128)
  | .result => if s.resultDefined then .ok (s.result.setWidth 128) else .error .readUnwritten
  | .argValue => .ok (s.argValue.setWidth 128)
  | .argRamp => .ok (s.argRamp.setWidth 128)
  | .argLength => .ok (s.argLength.setWidth 128)
  | .argFreq => .ok (s.argFreq.setWidth 128)
  | .argPin => .ok s.argPin
  | .argHint => .ok s.argHint
  | .resAf => if s.resDefined then .ok (s.resAf.setWidth 128) else .error .readUnwritten
  | .resTimer => if s.resDefined then .ok (s.resTimer.setWidth 128) else .error .readUnwritten
  | .resChannel => if s.resDefined then .ok (s.resChannel.setWidth 128) else .error .readUnwritten
  | .resInverted => if s.resDefined then .ok (s.resInverted.setWidth 128) else .error .readUnwritten

/-- What a port event comes to: an instruction for the decoder, or a bus access that is complete. -/
inductive Fetched where
  | instr (p : PortWord) (s : State)
  | access (r : Result)

/-- A whole-register write (R52, R55): a write of `CMD` executes the word, a write of an operand
register changes that register only, a write of a read-only register is ignored. -/
def State.writeReg (s : State) (r : Reg) (v : BitVec 128) : Fetched :=
  match r with
  | .cmd => .instr (.command (v.setWidth 32)) { s with cmd := v.setWidth 32 }
  | .status => .access (.next s)
  | .result => .access (.next s)
  | .argValue => .access (.next { s with argValue := v.setWidth 64 })
  | .argRamp => .access (.next { s with argRamp := v.setWidth 64 })
  | .argLength => .access (.next { s with argLength := v.setWidth 64 })
  | .argFreq => .access (.next { s with argFreq := v.setWidth 64 })
  | .argPin => .access (.next { s with argPin := v })
  | .argHint => .access (.next { s with argHint := v })
  | .resAf => .access (.next s)
  | .resTimer => .access (.next s)
  | .resChannel => .access (.next s)
  | .resInverted => .access (.next s)

/-- A bus write (R52, R54, 93 U12). -/
def busWrite (offset : BitVec 8) (width : Nat) (v : BitVec 128) (s : State) : Fetched :=
  match Reg.startingAt offset with
  | some r => if width = r.width then s.writeReg r v else .access (.refused .partialAccess)
  | none => if reservedOffset offset then .access (.next s) else .access (.refused .partialAccess)

/-- A bus read (R52, R54, R55, 93 U12): it has no side effect on the block. -/
def busRead (offset : BitVec 8) (width : Nat) (s : State) : Result :=
  match Reg.startingAt offset with
  | some r =>
    if width = r.width then
      match s.readReg r with
      | .ok v => .next { s with readData := v }
      | .error f => .fault f
    else .refused .partialAccess
  | none => if reservedOffset offset then .fault .readReserved else .refused .partialAccess

/-- What the next port event asks for. -/
def fetchEvent (e : PortEvent) (s : State) : Fetched :=
  match e with
  | .read offset width => .access (busRead offset width s)
  | .write offset width data => busWrite offset width (data.setWidth 128) s
  | .strobe slot => .instr (.strobe slot) s

/-- The port event that brings a port word to the block (R70, R80). -/
def eventOf : PortWord → PortEvent
  | .command w => .write 0x00 32 w
  | .strobe slot => .strobe slot

/-- The port event of a row's bits: a strobe for the one row of at most a byte, else a write of `CMD`
(log 15). -/
def tableEvent (nbits w : Nat) : PortEvent :=
  if nbits ≤ 8 then .strobe (BitVec.ofNat 4 w) else .write 0x00 32 (BitVec.ofNat 32 w)

end Sys2Proof.Machine
end

