-- ==== Sys2Proof/Machine/Operands.lean ====
section
/-! DEFINITION. Operand formats of the command port (R74 to R76): the decoder turns a register's
pattern into a rational or a byte string once, when the command runs. -/

namespace Sys2Proof.Machine

/-- `fix(v)` (R74): signed fixed point with 16 fraction bits. -/
def fix (v : BitVec 64) : Rat := (v.toInt : Rat) / 65536

/-- Byte `k` of a string register (R53, R75). -/
def regByte (v : BitVec 128) (k : Nat) : Byte := v.extractLsb' (8 * k) 8

/-- `str(v)` (R75), `none` where the pattern is malformed: byte 0 is the length, at most 15; the
characters follow in order; every byte after the last is zero. -/
def strOf (v : BitVec 128) : Option Bytes :=
  let len := (regByte v 0).toNat
  if len ≤ strMax ∧ (List.range strMax).all (fun k => k < len || regByte v (k + 1) == 0) then
    some ((List.range len).map fun k => regByte v (k + 1))
  else none

/-- The number whose byte `k` is the `k`-th byte of the list. -/
def packBytes : Bytes → Nat
  | [] => 0
  | b :: bs => b.toNat + 256 * packBytes bs

/-- The pattern the host writes for a string of at most 15 bytes (R75). -/
def packStr (b : Bytes) : BitVec 128 := BitVec.ofNat 128 (b.length + 256 * packBytes b)

/-- The string operands of `RESOLVE` and `CONSTRUCT`. A command that reads a malformed string
register is refused (R75). -/
def withStrings (s : State) (k : Bytes → Bytes → Result) : Result :=
  match strOf s.argPin with
  | none => .refused .malformedString
  | some pin =>
    match strOf s.argHint with
    | none => .refused .malformedString
    | some hint => k pin hint

/-- `f_req` of R121: a length that is given takes precedence, then a frequency, then 50 Hz. A length
or frequency of 0 is "not given" (R76). -/
def requestedFreq (length freq : Rat) : Rat :=
  if length ≠ 0 then usPerS / length else if freq ≠ 0 then freq else defaultFreq

end Sys2Proof.Machine
end

