-- ==== Sys2Proof/Machine/Duty.lean ====
section
/-! DEFINITION. Duty-cycle control: `DUTY_SET`, `DUTY_GET` (42_duty.md). -/

namespace Sys2Proof.Machine

/-- The channel after a duty of `p` percent is set: `Idle`, at the clamped percentage of its period (R140). -/
def Channel.setDuty (p : Rat) (ch : Channel) : Channel :=
  { ch with ramp := none, cur := clamp p 0 100 * ch.periodUs / 100 }

/-- `DUTY_SET(i, p)` (R140), for every rational percentage. -/
def dutySetCmd (i : SlotNum) (p : Rat) (s : State) : Result :=
  onLive i s fun ch => .next (s.setSlot i (some (ch.setDuty p))).succeed

/-- `DUTY_SET` with its operand from the port; it ignores `ARG_RAMP` (R140, R142). -/
def execDutySet (i : SlotNum) (s : State) : Result := dutySetCmd i (fix s.argValue) s

/-- The duty of a channel in whole percent (R141). -/
def Channel.duty (c : Config) (ch : Channel) : Int := roundQ c (100 * ch.cur / ch.periodUs)

/-- `DUTY_GET(i)` on an implementation `c` (R141). It changes no field of the channel. -/
def dutyGetOn (c : Config) (i : SlotNum) (s : State) : Result :=
  onLive i s fun ch => .next (s.returnInt c (ch.duty c)).succeed

/-- `DUTY_GET` (R141). -/
def execDutyGet (i : SlotNum) (s : State) : Result := dutyGetOn Config.platform i s

end Sys2Proof.Machine
end

