-- ==== Sys2Proof/Machine/Names.lean ====
section
/-! DEFINITION. The channel-name grammar (R83, R84). -/

namespace Sys2Proof.Machine

/-- The three classes of channel name (R83). -/
inductive NameClass where
  /-- `TIM<n>_CH<c>`. -/
  | oc (timer channel : Nat)
  /-- `TIM<n>_CH<c>N`, a complementary channel. -/
  | ocn (timer channel : Nat)
  /-- A non-channel entry. -/
  | other
deriving DecidableEq, Repr

/-- `'0'` to `'9'` (R83). -/
def isDigit (b : Byte) : Bool := 0x30 ≤ b.toNat && b.toNat ≤ 0x39

/-- The value of a digit. -/
def digitValue (b : Byte) : Nat := b.toNat - 0x30

/-- A string of digits read in base ten; leading zeros do not change the value (R83). -/
def decimal (ds : Bytes) : Nat := ds.foldl (fun acc d => 10 * acc + digitValue d) 0

/-- The longest run of digits at the front, and the rest. -/
def spanDigits : Bytes → Bytes × Bytes
  | [] => ([], [])
  | b :: bs => if isDigit b then (b :: (spanDigits bs).1, (spanDigits bs).2) else ([], b :: bs)

/-- The rest of a string after a literal at its front. -/
def afterLiteral : Bytes → Bytes → Option Bytes
  | [], s => some s
  | _ :: _, [] => none
  | a :: as, b :: bs => if a = b then afterLiteral as bs else none

/-- `"TIM"`. -/
def timLiteral : Bytes := [0x54, 0x49, 0x4D]

/-- `"_CH"`. -/
def chLiteral : Bytes := [0x5F, 0x43, 0x48]

/-- What follows the second digits decides between the classes (R83): nothing, a single `N`, or
anything else. -/
def classifyEnd (timer channel : Nat) : Bytes → NameClass
  | [] => .oc timer channel
  | [b] => if b = 0x4E then .ocn timer channel else .other
  | _ :: _ :: _ => .other

/-- The class of a channel name and its two numbers (R83). -/
def classify (name : Bytes) : NameClass :=
  match afterLiteral timLiteral name with
  | none => .other
  | some r1 =>
    if (spanDigits r1).1 = [] then .other
    else
      match afterLiteral chLiteral (spanDigits r1).2 with
      | none => .other
      | some r2 =>
        if (spanDigits r2).1 = [] then .other
        else classifyEnd (decimal (spanDigits r1).1) (decimal (spanDigits r2).1) (spanDigits r2).2

/-- `startsWith(s, h)` (00_scope.md section 7): byte for byte. -/
def startsWith (s h : Bytes) : Bool := (afterLiteral h s).isSome

end Sys2Proof.Machine
end

