-- ==== Sys2Proof/Machine/Resolver.lean ====
section
/-! DEFINITION. Capability resolution and the command `RESOLVE` (40_resolver.md). -/

namespace Sys2Proof.Machine

/-- `CAP(pin)` (R5, R101): the pin's candidates in the table's order, `none` where it is absent. -/
def capLookup (cap : List CapPin) (pin : Bytes) : Option (List CapEntry) :=
  (cap.find? fun row => row.pin == pin).map CapPin.entries

/-- A candidate whose name is a channel name, with the result it would give (R84, R108). -/
structure ChannelEntry where
  name : Bytes
  result : Resolved
deriving DecidableEq, Repr

/-- The channel entry of a candidate; none for a non-channel entry (R102). -/
def channelEntry (e : CapEntry) : Option ChannelEntry :=
  match classify e.name with
  | .oc n c => some ⟨e.name, ⟨e.altFunction, n, c, false⟩⟩
  | .ocn n c => some ⟨e.name, ⟨e.altFunction, n, c, true⟩⟩
  | .other => none

/-- `resolve` over a pin's candidate list (R100 to R108). -/
def resolveIn (cands : Option (List CapEntry)) (hint : Bytes) : Except ErrorKind Resolved :=
  match cands with
  | none => .error .unsupportedPin
  | some es =>
    let chans := es.filterMap channelEntry
    if chans = [] then .error .unsupportedPin
    else if hint ≠ [] then
      match chans.find? fun e => startsWith e.name hint with
      | none => .error .timerNotFound
      | some e => .ok e.result
    else
      match chans.find? fun e => !e.result.inverted with
      | none => .error .unsupportedPin
      | some e => .ok e.result

/-- `resolve(pin, hint)` (R100): it reads `CAP` and nothing else. -/
def resolve (cap : List CapPin) (pin hint : Bytes) : Except ErrorKind Resolved :=
  resolveIn (capLookup cap pin) hint

/-- `RESOLVE(pin, hint)` (R109). -/
def resolveCmd (pin hint : Bytes) (s : State) : Result :=
  if pin = [] then .refused .emptyPin
  else
    match resolve s.board.cap pin hint with
    | .error e => .next (s.raise e)
    | .ok r => .next (s.setResolved r).succeed

/-- `RESOLVE` with its operands from the port (R109). -/
def execResolve (s : State) : Result := withStrings s fun pin hint => resolveCmd pin hint s

end Sys2Proof.Machine
end

