-- ==== Sys2Proof/Machine/Lifecycle.lean ====
section
/-! DEFINITION. Channel construction and destruction: `CONSTRUCT`, `DESTROY` (41_lifecycle.md). -/

namespace Sys2Proof.Machine

/-- The channel that a successful `CONSTRUCT` makes: duty 0 % and `Idle` (R120, R123). -/
def newChannel (pin : Bytes) (r : Resolved) (period : Rat) : Channel where
  pinId := pin
  timerId := r.timerIndex
  channelId := r.channelIndex
  inverted := r.inverted
  periodUs := period
  cur := 0
  ramp := none

/-- The period of a channel on timer `t` (R122): `1_000_000 / QUANT(t, f_req)`. -/
def realisedPeriod (c : Config) (timer : Nat) (length freq : Rat) : Rat :=
  usPerS / quantQ c timer (requestedFreq length freq)

/-- `CONSTRUCT` once its refusals are past: resolution, then the claim test, then the success path as
one step (R120, R124 to R127). -/
def construction (c : Config) (i : SlotNum) (pin hint : Bytes) (length freq : Rat) (s : State) :
    State :=
  match resolve s.board.cap pin hint with
  | .error e => s.raise e
  | .ok r =>
    if s.conflict r.timerIndex r.channelIndex (realisedPeriod c r.timerIndex length freq) then
      s.raise .channelInUse
    else
      ((s.setPinAf pin r.altFunction).setSlot i
        (some (newChannel pin r (realisedPeriod c r.timerIndex length freq)))).succeed

/-- `CONSTRUCT(i, pin, hint, length, freq)` (R120), with the refusals of R128 first (R217). -/
def constructCmd (c : Config) (i : SlotNum) (pin hint : Bytes) (length freq : Rat) (s : State) :
    Result :=
  match s.view i with
  | .absent => .refused (.invalidWord (.slotOutOfRange i))
  | .live _ => .refused .slotLive
  | .empty =>
    if pin = [] then .refused .emptyPin
    else if length < 0 then .refused .negativeLength
    else if freq < 0 then .refused .negativeFreq
    else if s.pinBound pin then .refused .pinBound
    else .next (construction c i pin hint length freq s)

/-- `CONSTRUCT` with its operands from the port, on an implementation `c` (R120). -/
def constructOn (c : Config) (i : SlotNum) (s : State) : Result :=
  withStrings s fun pin hint => constructCmd c i pin hint (fix s.argLength) (fix s.argFreq) s

/-- `CONSTRUCT` (R120). -/
def execConstruct (i : SlotNum) (s : State) : Result := constructOn Config.platform i s

/-- `DESTROY(i)` (R129): the claim, the ramp and the callback registration go with the record;
`pin_af` stays. -/
def destroyCmd (i : SlotNum) (s : State) : Result :=
  onLive i s fun _ => .next (s.setSlot i none).succeed

/-- `DESTROY` (R129). -/
def execDestroy (i : SlotNum) (s : State) : Result := destroyCmd i s

end Sys2Proof.Machine
end

