-- ==== Sys2Proof/Machine/PulseWidth.lean ====
section
/-! DEFINITION. Pulse-width control and the start of timed ramps: `PW_GET`, `PW_SET`
(43_pulse_width_ramp.md sections 1 and 2). -/

namespace Sys2Proof.Machine

/-- `PW_GET(i)` on an implementation `c` (R150). It changes no field of the channel. -/
def pwGetOn (c : Config) (i : SlotNum) (s : State) : Result :=
  onLive i s fun ch => .next (s.returnInt c (roundQ c ch.cur)).succeed

/-- `PW_GET` (R150). -/
def execPwGet (i : SlotNum) (s : State) : Result := pwGetOn Config.platform i s

/-- `clampw(i, w)` (R151): every width written is clamped to the channel's period. -/
def Channel.clampWidth (ch : Channel) (w : Rat) : Rat := clamp w 0 ch.periodUs

/-- The number of ticks in `r` milliseconds, a rational (R154). -/
def Channel.ticksIn (ch : Channel) (r : Rat) : Rat := r * 1000 / ch.periodUs

/-- The immediate write (R152): it cancels an active ramp and sets the width. -/
def Channel.setWidth (w : Rat) (ch : Channel) : Channel :=
  { ch with ramp := none, cur := ch.clampWidth w }

/-- The timed write (R153, R155, R162): it replaces any earlier ramp and moves nothing. -/
def Channel.startRamp (w r : Rat) (ch : Channel) : Channel :=
  { ch with ramp := some ⟨ch.clampWidth w, (ch.clampWidth w - ch.cur) / ch.ticksIn r⟩ }

/-- `PW_SET(i, w, r)`: the sign of the ramp time alone chooses between the immediate write (R152),
the timed write (R153) and the refusal of R161. -/
def pwSetCmd (i : SlotNum) (w r : Rat) (s : State) : Result :=
  onLive i s fun ch =>
    if r < 0 then .refused .negativeRamp
    else if r = 0 then .next (s.setSlot i (some (ch.setWidth w))).succeed
    else .next (s.setSlot i (some (ch.startRamp w r))).succeed

/-- `PW_SET` with its operands from the port (R152, R153). -/
def execPwSet (i : SlotNum) (s : State) : Result :=
  pwSetCmd i (fix s.argValue) (fix s.argRamp) s

end Sys2Proof.Machine
end

