-- ==== Sys2Proof/Machine/Tick.lean ====
section
/-! DEFINITION. The tick: the block's one interrupt and its handler (43_pulse_width_ramp.md section 3,
60_exceptions.md section 2). -/

namespace Sys2Proof.Machine

/-- One tick of a `Ramping` channel (R156): advance by the step while the distance is greater than its
size, otherwise snap to the target and deregister the callback. -/
def Channel.tick (ch : Channel) (r : Ramp) : Channel :=
  if absQ r.step < absQ (ch.cur - r.target) then { ch with cur := ch.cur + r.step }
  else { ch with cur := r.target, ramp := none }

/-- Taking the tick interrupt of slot `i` is performing `TICK(i)` (R221): nothing is saved, no vector
is fetched, and there is no return (R222). A strobe whose step is not enabled has no effect (R80,
R156, R219). It writes no status and cannot fail (R164, R216). -/
def execTick (i : SlotNum) (s : State) : Result :=
  match s.view i with
  | .absent => .next s
  | .empty => .next s
  | .live ch =>
    match ch.ramp with
    | none => .next s
    | some r => .next (s.setSlot i (some (ch.tick r)))

/-- Ticks taken one after the other, of any slots in any order (R57, R220). -/
def runTicks : List SlotNum → State → Result
  | [], s => .next s
  | i :: rest, s => andThen (execTick i s) (runTicks rest)

end Sys2Proof.Machine
end

