-- ==== Sys2Proof/Machine/Dispatch.lean ====
section
/-! DEFINITION. The dispatch of every instruction to its meaning. -/

namespace Sys2Proof.Machine

def exec (i : Instr) (s : State) : Host.Outcome State Fault Refusal :=
  match i with
  | .resolve => Sys2Proof.Machine.execResolve s
  | .construct slot => Sys2Proof.Machine.execConstruct slot s
  | .destroy slot => Sys2Proof.Machine.execDestroy slot s
  | .dutySet slot => Sys2Proof.Machine.execDutySet slot s
  | .dutyGet slot => Sys2Proof.Machine.execDutyGet slot s
  | .pwSet slot => Sys2Proof.Machine.execPwSet slot s
  | .pwGet slot => Sys2Proof.Machine.execPwGet slot s
  | .tick slot => Sys2Proof.Machine.execTick slot s

end Sys2Proof.Machine
end

