-- ==== Sys2Proof/Machine/Step.lean ====
section
/-! DEFINITION. One step of the block: the next port event, whole (R56, R57). -/

namespace Sys2Proof.Machine

/-- The next state, with the next event taken from the list; a block to which nothing comes stays as
it is (log 7). An instruction runs when the decoder of a block with this many slots accepts it; any
other word is refused (R79). -/
def step (s : State) : Host.Outcome State Fault Refusal :=
  match s.inbox with
  | [] => .next s
  | e :: rest =>
    match fetchEvent e { s with inbox := rest } with
    | .access r => r
    | .instr p s' =>
      match decodeFor s'.slots.length p with
      | .error d => .refused (.invalidWord d)
      | .ok i => exec i s'

/-- The state whose next event is the row's word written to `CMD`, or the row's strobe (log 7). -/
def State.withFetchWord (s : State) (nbits w : Nat) : State :=
  { s with inbox := tableEvent nbits w :: s.inbox }

end Sys2Proof.Machine
end

