-- ==== Sys2Proof/Machine/Command.lean ====
section
/-! DEFINITION. The abstract commands of R70, with rational and string operands that the port need not
be able to carry. The consumers of 44_consumers.md are stated over them. -/

namespace Sys2Proof.Machine

/-- An abstract command (R70). -/
inductive Command where
  | resolve (pin hint : Bytes)
  | construct (slot : SlotNum) (pin hint : Bytes) (length freq : Rat)
  | destroy (slot : SlotNum)
  | dutySet (slot : SlotNum) (p : Rat)
  | dutyGet (slot : SlotNum)
  | pwSet (slot : SlotNum) (w r : Rat)
  | pwGet (slot : SlotNum)
deriving DecidableEq, Repr

/-- One abstract command on an implementation `c`, as one atomic step (R56). -/
def Command.run (c : Config) (s : State) : Command → Result
  | .resolve pin hint => resolveCmd pin hint s
  | .construct slot pin hint length freq => constructCmd c slot pin hint length freq s
  | .destroy slot => destroyCmd slot s
  | .dutySet slot p => dutySetCmd slot p s
  | .dutyGet slot => dutyGetOn c slot s
  | .pwSet slot w r => pwSetCmd slot w r s
  | .pwGet slot => pwGetOn c slot s

/-- The abstract command that a command word stands for, its operands taken from the port (R70). It is
`none` for the tick event, which is no command, and where a string register is malformed (R75). -/
def commandOf (s : State) : Instr → Option Command
  | .resolve =>
    match strOf s.argPin, strOf s.argHint with
    | some pin, some hint => some (.resolve pin hint)
    | _, _ => none
  | .construct slot =>
    match strOf s.argPin, strOf s.argHint with
    | some pin, some hint => some (.construct slot pin hint (fix s.argLength) (fix s.argFreq))
    | _, _ => none
  | .destroy slot => some (.destroy slot)
  | .dutySet slot => some (.dutySet slot (fix s.argValue))
  | .dutyGet slot => some (.dutyGet slot)
  | .pwSet slot => some (.pwSet slot (fix s.argValue) (fix s.argRamp))
  | .pwGet slot => some (.pwGet slot)
  | .tick _ => none

end Sys2Proof.Machine
end

