-- ==== Sys2Proof/Machine/HBridge.lean ====
section
/-! DEFINITION. The HBridge, a consumer of the block (44_consumers.md section 2): its operations are
sequences of commands and of writes of a digital direction pin, made by the host, with ticks between
them (R197). Its state is the host program's, not the block's (log 19). -/

namespace Sys2Proof.Machine

/-- The run mode, with the direction pin of `ONE_SPEED` and the slots the HBridge owns: `a` is the
forward channel, `b` the reverse one (R190, R191). -/
inductive BridgeMode where
  | oneSpeed (dirPin : Bytes) (a : SlotNum)
  | runCoast (a b : SlotNum)
  | runBrake (a b : SlotNum)
deriving DecidableEq, Repr

/-- An HBridge (R190). -/
structure HBridge where
  /-- Which HBridge of the host program this is: one number for each `HB_INIT`. Each has free values of
  its own (log 20). -/
  id : Nat
  mode : BridgeMode
  /-- The level of the direction pin; only `ONE_SPEED` has one. -/
  dir : PinLevel
  /-- The last commanded speed; `none` before the first `HB_GO_SET` (R191, R196). -/
  last : Option Rat
  /-- How many of its free values have been used (logs 20, 27). -/
  freeIndex : Nat
deriving DecidableEq, Repr

/-- One action of the host: a level on a digital pin outside the block, or a command to the block. -/
inductive HostAction where
  | dir (pin : Bytes) (level : PinLevel)
  | cmd (c : Command)
deriving DecidableEq, Repr

/-- Which ticks come between the commands of an operation: the list at position `k` stands before its
action number `k`, and a missing list is empty. Every interleaving that R57 and R197 admit is one. -/
abbrev TickSchedule := List (List SlotNum)

/-- One action, on the level of the direction pin and the block. -/
def HostAction.run (c : Config) (ps : PinLevel × State) :
    HostAction → Host.Outcome (PinLevel × State) Fault Refusal
  | .dir _ level => .next (level, ps.2)
  | .cmd cm => andThen (Command.run c ps.2 cm) fun s' => .next (ps.1, s')

/-- The actions of a host program in order, each after the ticks that come before it. The state after
each of them is a state of the block, visible at its outputs (R197). -/
def runActions (c : Config) :
    List HostAction → TickSchedule → PinLevel × State → Host.Outcome (PinLevel × State) Fault Refusal
  | [], _, ps => .next ps
  | act :: rest, between, ps =>
    andThen (runTicks (between.headD []) ps.2) fun s =>
      andThen (act.run c (ps.1, s)) (runActions c rest between.tail)

/-- A new HBridge: `last` is unwritten, and the direction level is free, in each HBridge by itself
(R191, log 20). -/
def newBridge (c : Config) (id : Nat) (mode : BridgeMode) : HBridge where
  id := id
  mode := mode
  dir := c.freeLevel id 0
  last := none
  freeIndex := 1

/-- A `CONSTRUCT` with the operands other than the pin "not given" (R191). -/
def constructPin (slot : SlotNum) (pin : Bytes) : Command := .construct slot pin [] 0 0

/-- `HB_INIT ONE_SPEED, dirPin, pwmPin` (R191): the result is the HBridge or the error code. -/
def bridgeInitOne (c : Config) (id : Nat) (a : SlotNum) (dirPin pwmPin : Bytes) (s : State) :
    Host.Outcome (Except (BitVec 32) HBridge × State) Fault Refusal :=
  andThen (Command.run c s (constructPin a pwmPin)) fun s' =>
    if s'.status = 0 then .next (.ok (newBridge c id (.oneSpeed dirPin a)), s')
    else .next (.error s'.status, s')

/-- A command after the ticks that come before it (R57). -/
def runAfterTicks (c : Config) (before : List SlotNum) (cmd : Command) (s : State) : Result :=
  andThen (runTicks before s) fun s' => Command.run c s' cmd

/-- `HB_INIT` in a two-channel mode (R191): if the second construction fails, the first is undone.
Ticks may come before each of its up to three commands (R57). -/
def bridgeInitTwo (c : Config) (id : Nat) (mode : BridgeMode) (a b : SlotNum)
    (pinA pinB : Bytes) (between : TickSchedule) (s : State) :
    Host.Outcome (Except (BitVec 32) HBridge × State) Fault Refusal :=
  andThen (runAfterTicks c (between.getD 0 []) (constructPin a pinA) s) fun s1 =>
    if s1.status = 0 then
      andThen (runAfterTicks c (between.getD 1 []) (constructPin b pinB) s1) fun s2 =>
        if s2.status = 0 then .next (.ok (newBridge c id mode), s2)
        else
          andThen (runAfterTicks c (between.getD 2 []) (.destroy a) s2) fun s3 =>
            .next (.error s2.status, s3)
    else .next (.error s1.status, s1)

/-- `HB_INIT RUN_COAST` (R191). -/
def bridgeInitCoast (c : Config) (id : Nat) (a b : SlotNum) (pinA pinB : Bytes)
    (between : TickSchedule) (s : State) : Host.Outcome (Except (BitVec 32) HBridge × State) Fault Refusal :=
  bridgeInitTwo c id (.runCoast a b) a b pinA pinB between s

/-- `HB_INIT RUN_BRAKE` (R191). -/
def bridgeInitBrake (c : Config) (id : Nat) (a b : SlotNum) (pinA pinB : Bytes)
    (between : TickSchedule) (s : State) : Host.Outcome (Except (BitVec 32) HBridge × State) Fault Refusal :=
  bridgeInitTwo c id (.runBrake a b) a b pinA pinB between s

/-- Zeroing both outputs first (R192): the direction pin low then `a`, or `a` then `b`. -/
def BridgeMode.zeroing : BridgeMode → List HostAction
  | .oneSpeed dirPin a => [.dir dirPin .low, .cmd (.dutySet a 0)]
  | .runCoast a b => [.cmd (.dutySet a 0), .cmd (.dutySet b 0)]
  | .runBrake a b => [.cmd (.dutySet a 0), .cmd (.dutySet b 0)]

/-- What drives the outputs after the zeroing, for a clamped speed `v` (R193, R194, R195). At speed 0
the direction level of `ONE_SPEED` is the free level given (R193, 93 U9; log 20), and which channel of
`RUN_BRAKE` is called "on", and so written second, is the free choice given (R195; log 27). -/
def BridgeMode.driving (level : PinLevel) (reverseOn : Bool) (v : Rat) : BridgeMode → List HostAction
  | .oneSpeed dirPin a =>
    [.dir dirPin (if 0 < v then .high else if v < 0 then .low else level), .cmd (.dutySet a (absQ v))]
  | .runCoast a b =>
    if 0 < v then [.cmd (.dutySet a (absQ v))]
    else if v < 0 then [.cmd (.dutySet b (absQ v))]
    else []
  | .runBrake a b =>
    if v < 0 ∨ (v = 0 ∧ reverseOn = true) then
      [.cmd (.dutySet a 100), .cmd (.dutySet b (100 - absQ v))]
    else [.cmd (.dutySet b 100), .cmd (.dutySet a (100 - absQ v))]

/-- The expansion of `HB_GO_SET speed`: the speed is clamped to 100 in magnitude (R192). -/
def HBridge.goActions (c : Config) (hb : HBridge) (speed : Rat) : List HostAction :=
  hb.mode.zeroing ++
    hb.mode.driving (c.freeLevel hb.id hb.freeIndex) (c.freeReverseOn hb.id hb.freeIndex)
      (clamp speed (-100) 100)

/-- `HB_GO_SET` (R192), with ticks between its actions (R197); `last` receives the clamped speed. -/
def bridgeGoSet (c : Config) (hb : HBridge) (speed : Rat) (between : TickSchedule) (s : State) :
    Host.Outcome (HBridge × State) Fault Refusal :=
  andThen (runActions c (hb.goActions c speed) between (hb.dir, s)) fun ps =>
    .next ({ hb with dir := ps.1, last := some (clamp speed (-100) 100),
                     freeIndex := hb.freeIndex + 1 }, ps.2)

/-- `HB_GO_GET` (R196): it sends no command to the block. -/
def bridgeGoGet (hb : HBridge) : Host.Outcome Rat Fault Refusal :=
  match hb.last with
  | some v => .next v
  | none => .fault .lastSpeedUnwritten

end Sys2Proof.Machine
end

