-- ==== Sys2Proof/Machine/Servo.lean ====
section
/-! DEFINITION. The Servo, a consumer of the block (44_consumers.md section 1): computations of the
host followed by the block's commands. Its state is the host program's, not the block's (log 19). -/

namespace Sys2Proof.Machine

/-- A Servo: the slot it owns and its calibration, in microseconds (R180). -/
structure Servo where
  slot : SlotNum
  pulseMin : Rat
  pulseMax : Rat
  pulseCenter : Rat
  pulseAngle90 : Rat
  pulseSpeed100 : Rat
deriving DecidableEq, Repr

/-- The calibration defaults for a total pulse length `total` (R181). -/
def servoDefaults (slot : SlotNum) (total : Rat) : Servo where
  slot := slot
  pulseMin := total * 5 / 100
  pulseMax := total * 10 / 100
  pulseCenter := total * 75 / 1000
  pulseAngle90 := total * 10 / 100
  pulseSpeed100 := total * 10 / 100

/-- The total pulse length the Servo asks for (R181): the length when given, else one period of the
requested frequency. -/
def requestedLength (length freq : Rat) : Rat :=
  if length ≠ 0 then length else usPerS / requestedFreq length freq

/-- `SERVO_INIT` (R181): construct; on an error no Servo exists, and the code is the result. -/
def servoInit (c : Config) (slot : SlotNum) (pin hint : Bytes) (length freq : Rat) (s : State) :
    Host.Outcome (Except (BitVec 32) Servo × State) Fault Refusal :=
  andThen (Command.run c s (.construct slot pin hint length freq)) fun s' =>
    if s'.status = 0 then .next (.ok (servoDefaults slot (requestedLength length freq)), s')
    else .next (.error s'.status, s')

/-- `SERVO_CALIBRATE` (R182): a given value replaces, an absent one stays; no command is sent. -/
def servoCalibrate (min max center angle90 speed100 : Option Rat) (sv : Servo) :
    Host.Outcome Servo Fault Refusal :=
  let new : Servo :=
    { sv with pulseMin := min.getD sv.pulseMin, pulseMax := max.getD sv.pulseMax,
              pulseCenter := center.getD sv.pulseCenter,
              pulseAngle90 := angle90.getD sv.pulseAngle90,
              pulseSpeed100 := speed100.getD sv.pulseSpeed100 }
  if new.pulseMax < new.pulseMin then .refused .calibrationRange else .next new

/-- The width for an angle, clamped to the calibration (R183). -/
def Servo.angleWidth (sv : Servo) (value : Rat) : Rat :=
  clamp (sv.pulseCenter + sv.pulseAngle90 * value / 90) sv.pulseMin sv.pulseMax

/-- The expansion of `SERVO_ANGLE_SET`; `time` is in milliseconds (R183). -/
def servoAngleSet (sv : Servo) (value time : Rat) : Command :=
  .pwSet sv.slot (sv.angleWidth value) time

/-- The width for a speed, clamped to the calibration (R185). -/
def Servo.speedWidth (sv : Servo) (value : Rat) : Rat :=
  clamp (sv.pulseCenter + sv.pulseSpeed100 * value / 100) sv.pulseMin sv.pulseMax

/-- The expansion of `SERVO_SPEED_SET` (R185). -/
def servoSpeedSet (sv : Servo) (value time : Rat) : Command :=
  .pwSet sv.slot (sv.speedWidth value) time

/-- `PW_GET` as the host sees it: the width that `RESULT` carries (R184, log 21). -/
def hostPwGet (c : Config) (slot : SlotNum) (s : State) :
    Host.Outcome (Rat × State) Fault Refusal :=
  andThen (Command.run c s (.pwGet slot)) fun s' => .next (fix s'.result, s')

/-- `SERVO_ANGLE_GET` (R184), in whole degrees. -/
def servoAngleGet (c : Config) (sv : Servo) (s : State) :
    Host.Outcome (Int × State) Fault Refusal :=
  if sv.pulseAngle90 = 0 then .refused .zeroAngleReference
  else
    andThen (hostPwGet c sv.slot s) fun r =>
      .next (roundQ c ((r.1 - sv.pulseCenter) * 90 / sv.pulseAngle90), r.2)

/-- `SERVO_SPEED_GET` (R186), in whole percent. -/
def servoSpeedGet (c : Config) (sv : Servo) (s : State) :
    Host.Outcome (Int × State) Fault Refusal :=
  if sv.pulseSpeed100 = 0 then .refused .zeroSpeedReference
  else
    andThen (hostPwGet c sv.slot s) fun r =>
      .next (roundQ c ((r.1 - sv.pulseCenter) * 100 / sv.pulseSpeed100), r.2)

end Sys2Proof.Machine
end

