-- ==== Sys2Proof/Machine/Outputs.lean ====
section
/-! DEFINITION. The block's outputs, all functions of the state (R33). An `Empty` slot has no compare
value, polarity or frequency (R129, 93 U14): the output is then `none`. -/

namespace Sys2Proof.Machine

/-- `compare_out(i)`: the high-time in microseconds of each period, equal to `cur` in every state. -/
def State.compareOut (s : State) (i : Nat) : Option Rat := (s.channelAt i).map Channel.cur

/-- The polarity of slot `i`. -/
def State.polarityOut (s : State) (i : Nat) : Option Bool := (s.channelAt i).map Channel.inverted

/-- The timer of slot `i` and the frequency it is set to, in hertz. -/
def State.timerOut (s : State) (i : Nat) : Option (Nat × Rat) :=
  (s.channelAt i).map fun ch => (ch.timerId, usPerS / ch.periodUs)

/-- `cb_en(i)`: the callback-enable line of a live channel. -/
def State.callbackEnable (s : State) (i : Nat) : Option Bool :=
  (s.channelAt i).map fun ch => ch.ramp.isSome

/-- The alternate function the block last configured for a pin (R30). -/
def State.pinFunction (s : State) (pin : Bytes) : Option Int := pinAfGet s.pinAf pin

end Sys2Proof.Machine
end

