-- ==== Sys2Proof/Safety.lean ====
section
/-! DEFINITION. What a sound state of the block is (10_state.md section 2), runs of ticks, open runs
with fairness (R250) and the end of a run (R251): the terms that claims use. -/

namespace Sys2Proof.Machine

/-- A ramp fits its channel: the target is in `[0, period_us]` (R26), and the step leads toward the
target, being zero only where there is no distance (R155, R160). -/
structure Ramp.Fits (ch : Channel) (r : Ramp) : Prop where
  target_nonneg : 0 ≤ r.target
  target_le : r.target ≤ ch.periodUs
  toward : 0 ≤ r.step * (r.target - ch.cur)
  moves : r.step = 0 → r.target = ch.cur

/-- A live channel's fields are in their ranges (R21, R23, R24, R26). -/
structure Channel.Sound (ch : Channel) : Prop where
  pin_length : 1 ≤ ch.pinId.length ∧ ch.pinId.length ≤ strMax
  period_pos : 0 < ch.periodUs
  cur_nonneg : 0 ≤ ch.cur
  cur_le : ch.cur ≤ ch.periodUs
  ramp_fits : ∀ r, ch.ramp = some r → r.Fits ch

/-- Two live channels of one block: no shared pair (R29, R124), no shared pin (R128), one period per
timer, and no shared timer at all where the hardware does not allow it (R125). -/
structure Channel.Compatible (exclusive : Bool) (a b : Channel) : Prop where
  pair : ¬ (a.timerId = b.timerId ∧ a.channelId = b.channelId)
  pin : a.pinId ≠ b.pinId
  period : a.timerId = b.timerId → a.periodUs = b.periodUs
  timer : exclusive = true → a.timerId ≠ b.timerId

/-- The invariant of 10_state.md section 2 and of the register formats. -/
structure State.Inv (s : State) : Prop where
  /-- R6. -/
  slot_count : 1 ≤ s.slots.length ∧ s.slots.length ≤ 16
  /-- R26 and the ranges of the summary table after R25. -/
  sound : ∀ i ch, s.channelAt i = some ch → ch.Sound
  /-- R29, R125, R128. -/
  compatible : ∀ i j a b, i ≠ j → s.channelAt i = some a → s.channelAt j = some b →
    a.Compatible s.board.timerExclusive b
  /-- R5, 93 U15. -/
  board : s.board.wf = true
  /-- log 17. -/
  pin_af : PinAf.wf s.pinAf
  /-- R78; code 4 is never raised by the block (R214). -/
  status_code : s.status.toNat ≤ 3
  /-- `RES_INVERTED` has bits 31:1 zero (R32). -/
  inverted_bit : s.resInverted = 0 ∨ s.resInverted = 1

/-- Two channel records have one binding (R28, R130). -/
def Channel.SameBinding (a b : Channel) : Prop :=
  a.pinId = b.pinId ∧ a.timerId = b.timerId ∧ a.channelId = b.channelId ∧
    a.inverted = b.inverted ∧ a.periodUs = b.periodUs

/-- `n` steps `TICK(i)` one after the other. -/
def ticks (i : SlotNum) (n : Nat) (s : State) : Result := runTicks (List.replicate n i) s

/-- No tick is enabled: every live channel is `Idle` (R251). -/
def State.quiet (s : State) : Prop := ∀ i, s.ramping i = false

/-- The event is a write of a command word to `CMD` (R70). -/
def PortEvent.isCommand : PortEvent → Bool
  | .read _ _ => false
  | .write offset width _ => offset == 0x00 && width == 32
  | .strobe _ => false

/-- What the end of a test run asks of a state: its last command has been performed (other events may
still come), and no tick is enabled (R251). It does not say that anything stops. -/
def State.runEnded (s : State) : Prop := (∀ e ∈ s.inbox, e.isCommand = false) ∧ s.quiet

/-- `n` steps one after the other. -/
def runSteps : Nat → State → Result
  | 0, s => .next s
  | n + 1, s => andThen (step s) (runSteps n)

/-- The end of the test run that the events of `s` make is the state `t`, after `n` steps: the first
one in which the run has ended (R251). -/
def RunEndsAt (s : State) (n : Nat) (t : State) : Prop :=
  runSteps n s = .next t ∧ t.runEnded ∧ ∀ m u, m < n → runSteps m s = .next u → ¬ u.runEnded

/-- A run of the block under an endless sequence of port events, one a step (R57). -/
def OpenRun (ev : Nat → PortEvent) (run : Nat → State) : Prop :=
  ∀ n, step { run n with inbox := [ev n] } = .next (run (n + 1))

/-- No command comes from event number `n` on. -/
def NoCommandFrom (ev : Nat → PortEvent) (n : Nat) : Prop := ∀ m, n ≤ m → (ev m).isCommand = false

/-- The end of an open run: its first state, after the last command has been performed, in which no
tick is enabled (R251). -/
def OpenRunEndsAt (ev : Nat → PortEvent) (run : Nat → State) (n : Nat) : Prop :=
  (NoCommandFrom ev n ∧ (run n).quiet) ∧ ∀ m, m < n → ¬ (NoCommandFrom ev m ∧ (run m).quiet)

/-- Fairness: while `TICK(i)` stays enabled it is eventually taken (R250). -/
def FairTicks (ev : Nat → PortEvent) (run : Nat → State) : Prop :=
  ∀ (i : SlotNum) n, ∃ m, n ≤ m ∧ (ev m = .strobe i ∨ (run m).ramping i.toNat = false)

/-- The event `e` cannot touch the ramp of slot `i`: it is not a write to `CMD` of a command that sets
or destroys that slot's channel (R158). -/
def PortEvent.spares (i : SlotNum) (s : State) (e : PortEvent) : Prop :=
  ∀ p s', fetchEvent e s = .instr p s' →
    decode p ≠ .ok (.dutySet i) ∧ decode p ≠ .ok (.pwSet i) ∧ decode p ≠ .ok (.destroy i)

end Sys2Proof.Machine
end

