-- ==== Sys2Proof/Certificates/Slice0/Obligations.lean ====
section
/-! DEFINITION. The statements about PWM-RAMP for the provers, one definition each; OBLIGATIONS.json
lists them. An equation `exec i s = .next { s with … }` is also the frame of the instruction: every
field of State that the update does not name is unchanged. -/

open Sys2Proof Sys2Proof.Machine

/-! ### Encoding -/

/-- Decoding the encoding of a well-formed instruction gives it back, for every slot number (R70 to
R73, R80). -/
def Obligations.DecodeOfEncode : Prop :=
  ∀ (nslots : Nat) (i : Instr), i.wellFormed nslots = true → decodeFor nslots (encode i) = .ok i

/-- A word or strobe that decodes is the encoding of what it decodes to, which is well formed. -/
def Obligations.EncodeOfDecode : Prop :=
  ∀ (nslots : Nat) (p : PortWord) (i : Instr), decodeFor nslots p = .ok i →
    encode i = p ∧ i.wellFormed nslots = true

/-- The words of 95_test_vectors.md section 3.2, on a block of 4 slots, and one strobe. -/
def Obligations.VectorWordsDecode : Prop :=
  decodeFor 4 (.command 0x10000000) = .ok .resolve ∧
  decodeFor 4 (.command 0x23000000) = .ok (.construct 3) ∧
  decodeFor 4 (.command 0x31000000) = .ok (.destroy 1) ∧
  decodeFor 4 (.command 0x40000000) = .ok (.dutySet 0) ∧
  decodeFor 4 (.command 0x52000000) = .ok (.dutyGet 2) ∧
  decodeFor 4 (.command 0x61000000) = .ok (.pwSet 1) ∧
  decodeFor 4 (.command 0x73000000) = .ok (.pwGet 3) ∧
  decodeFor 4 (.strobe 9) = .ok (.tick 9)

/-- R79: exactly the words it lists are refused as no commands when they are written to `CMD`. -/
def Obligations.ReservedWordsAreRefused : Prop :=
  ∀ (s : State) (w : CmdWord) (rest : List PortEvent), s.inbox = .write 0x00 32 w :: rest →
    ((w.extractLsb' 28 4 = 0#4 ∨ 8 ≤ (w.extractLsb' 28 4).toNat ∨ w.extractLsb' 0 24 ≠ 0#24 ∨
        (w.extractLsb' 28 4 = 1#4 ∧ w.extractLsb' 24 4 ≠ 0#4) ∨
        (w.extractLsb' 28 4 ≠ 1#4 ∧ s.slots.length ≤ (w.extractLsb' 24 4).toNat)) ↔
      ∃ d, step s = .refused (.invalidWord d))

/-! ### The step and the ports -/

/-- A step runs the instruction that the next port event decodes to: a word written to `CMD` (which
keeps the word), or a strobe. Around exec, the step only takes the event from the list. -/
def Obligations.StepRunsDecodedInstruction : Prop :=
  ∀ (s : State) (rest : List PortEvent) (i : Instr),
    (∀ w : CmdWord, s.inbox = .write 0x00 32 w :: rest →
      decodeFor s.slots.length (.command w) = .ok i →
        step s = exec i { s with inbox := rest, cmd := w }) ∧
    (∀ slot : SlotNum, s.inbox = .strobe slot :: rest →
      decodeFor s.slots.length (.strobe slot) = .ok i →
        step s = exec i { s with inbox := rest })

/-- The model's choice (log 7): a block to which nothing comes stays as it is. -/
def Obligations.NoEventNoChange : Prop :=
  ∀ s : State, s.inbox = [] → step s = .next s

/-- A write of an operand register changes that register only (R55). -/
def Obligations.OperandWriteChangesOneRegister : Prop :=
  ∀ (s : State) (rest : List PortEvent) (v : BitVec 64) (u : BitVec 128),
    (s.inbox = .write 0x10 64 v :: rest → step s = .next { s with inbox := rest, argValue := v }) ∧
    (s.inbox = .write 0x18 64 v :: rest → step s = .next { s with inbox := rest, argRamp := v }) ∧
    (s.inbox = .write 0x20 64 v :: rest → step s = .next { s with inbox := rest, argLength := v }) ∧
    (s.inbox = .write 0x28 64 v :: rest → step s = .next { s with inbox := rest, argFreq := v }) ∧
    (s.inbox = .write 0x30 128 u :: rest → step s = .next { s with inbox := rest, argPin := u }) ∧
    (s.inbox = .write 0x40 128 u :: rest → step s = .next { s with inbox := rest, argHint := u })

/-- A read of any register changes nothing but what the bus delivers (R55). -/
def Obligations.ReadHasNoSideEffect : Prop :=
  ∀ (s t : State) (rest : List PortEvent) (offset : BitVec 8) (width : Nat),
    s.inbox = .read offset width :: rest → step s = .next t →
      t = { s with inbox := rest, readData := t.readData }

/-- What a whole-register read delivers (R32, R52), `RESULT` and `RES_*` once they are written. -/
def Obligations.ReadDeliversRegister : Prop :=
  ∀ (s : State) (rest : List PortEvent) (offset : BitVec 8) (width : Nat) (v : BitVec 128),
    s.inbox = .read offset width :: rest →
    ((offset, width, v) = (0x04#8, 32, s.status.setWidth 128) ∨
      (offset, width, v) = (0x10#8, 64, s.argValue.setWidth 128) ∨
      (offset, width, v) = (0x18#8, 64, s.argRamp.setWidth 128) ∨
      (offset, width, v) = (0x20#8, 64, s.argLength.setWidth 128) ∨
      (offset, width, v) = (0x28#8, 64, s.argFreq.setWidth 128) ∨
      (offset, width, v) = (0x30#8, 128, s.argPin) ∨
      (offset, width, v) = (0x40#8, 128, s.argHint) ∨
      (s.resultDefined = true ∧ (offset, width, v) = (0x08#8, 64, s.result.setWidth 128)) ∨
      (s.resDefined = true ∧
        ((offset, width, v) = (0x50#8, 32, s.resAf.setWidth 128) ∨
          (offset, width, v) = (0x54#8, 32, s.resTimer.setWidth 128) ∨
          (offset, width, v) = (0x58#8, 32, s.resChannel.setWidth 128) ∨
          (offset, width, v) = (0x5C#8, 32, s.resInverted.setWidth 128)))) →
    step s = .next { s with inbox := rest, readData := v }

/-- Writes that have no effect (a read-only register, an offset from 0x60) and reads that have no
defined value (`CMD`, an offset from 0x60) (R52, 93 U12; for reserved offsets of any width, log 11). -/
def Obligations.WrongDirectionAccesses : Prop :=
  ∀ (s : State) (rest : List PortEvent) (offset : BitVec 8) (width : Nat) (v : BitVec width),
    (s.inbox = .write offset width v :: rest →
      (0x60 ≤ offset.toNat ∨ (offset, width) = (0x04#8, 32) ∨ (offset, width) = (0x08#8, 64) ∨
        (offset, width) = (0x50#8, 32) ∨ (offset, width) = (0x54#8, 32) ∨
        (offset, width) = (0x58#8, 32) ∨ (offset, width) = (0x5C#8, 32)) →
      step s = .next { s with inbox := rest }) ∧
    (s.inbox = .read offset width :: rest → 0x60 ≤ offset.toNat → step s = .fault .readReserved) ∧
    (s.inbox = .read 0x00 32 :: rest → step s = .fault .readWriteOnly)

/-- R54: every register is naturally aligned up to 8 bytes, and an access of another width, or at an
offset inside a register, is refused. -/
def Obligations.PartialAccessIsRefused : Prop :=
  (∀ r : Reg, r.offset.toNat % min (r.width / 8) 8 = 0) ∧
  ∀ (s : State) (rest : List PortEvent) (offset : BitVec 8) (width : Nat) (v : BitVec width),
    offset.toNat < 0x60 → (∀ r : Reg, r.offset = offset → r.width ≠ width) →
    s.inbox = .read offset width :: rest ∨ s.inbox = .write offset width v :: rest →
    step s = .refused .partialAccess

/-- `RESULT` and the `RES_*` registers have no value to read before their first write (R38, 93 U7,
U8; log 8 says how the model keeps track). -/
def Obligations.UnwrittenResultReadFaults : Prop :=
  ∀ (s : State) (rest : List PortEvent),
    (s.resultDefined = false → s.inbox = .read 0x08 64 :: rest →
      step s = .fault .readUnwritten) ∧
    (s.resDefined = false → (s.inbox = .read 0x50 32 :: rest ∨ s.inbox = .read 0x54 32 :: rest ∨
        s.inbox = .read 0x58 32 :: rest ∨ s.inbox = .read 0x5C 32 :: rest) →
      step s = .fault .readUnwritten)

/-- R240: what reset leaves. "Unspecified" is that no read of the register gives a value. -/
def Obligations.ResetLeavesTheBlockEmpty : Prop :=
  (1 ≤ State.reset.slots.length ∧ State.reset.slots.length ≤ 16) ∧
  (∀ x ∈ State.reset.slots, x = none) ∧
  (∀ t c, State.reset.claimed t c = false) ∧
  State.reset.quiet ∧
  (∀ pin, State.reset.pinFunction pin = none) ∧
  State.reset.status = 0 ∧
  State.reset.argValue = 0 ∧ State.reset.argRamp = 0 ∧ State.reset.argLength = 0 ∧
  State.reset.argFreq = 0 ∧ State.reset.argPin = 0 ∧ State.reset.argHint = 0 ∧
  (∀ r ∈ [Reg.result, .resAf, .resTimer, .resChannel, .resInverted],
    State.reset.readReg r = .error .readUnwritten)

/-! ### Operand formats -/

/-- R75: which patterns are malformed, what a well-formed one holds, and that a command that reads a
malformed one is refused (under which name, where another refusal applies too, is the model's choice
of log 13, of which this says nothing). -/
def Obligations.StringRegisterFormat : Prop :=
  (∀ v : BitVec 128, strOf v = none ↔
    15 < (regByte v 0).toNat ∨
      ∃ k, (regByte v 0).toNat < k ∧ k ≤ 15 ∧ regByte v k ≠ 0) ∧
  (∀ (v : BitVec 128) (b : Bytes), strOf v = some b →
    b.length = (regByte v 0).toNat ∧ ∀ k, k < b.length → b[k]? = some (regByte v (k + 1))) ∧
  (∀ (s : State) (slot : SlotNum), strOf s.argPin = none ∨ strOf s.argHint = none →
    (∃ r, exec .resolve s = .refused r) ∧ ∃ r, exec (.construct slot) s = .refused r)

/-- Every string of at most 15 bytes has exactly one pattern, and it is read back from it (R75). -/
def Obligations.StringRegisterRoundTrip : Prop :=
  (∀ b : Bytes, b.length ≤ 15 → strOf (packStr b) = some b) ∧
  ∀ (v : BitVec 128) (b : Bytes), strOf v = some b → packStr b = v

/-- `unfix(q)` is the pattern `p` with `sext_64(p) = q * 65536`, defined when there is one
(00_scope.md section 7). -/
def Obligations.UnfixIsTheInverseOfFix : Prop :=
  ∀ (q : Rat) (v : BitVec 64), unfix q = some v ↔ (v.toInt : Rat) = q * 65536

/-! ### Resolution -/

/-- R83: the grammar of channel names, read as a whole match; numerals are in base ten and leading
zeros do not count. -/
def Obligations.ChannelNameGrammar : Prop :=
  (∀ (name : Bytes) (n c : Nat), classify name = .oc n c ↔
    ∃ ds cs : Bytes, ds ≠ [] ∧ cs ≠ [] ∧ (∀ b ∈ ds ++ cs, 0x30 ≤ b.toNat ∧ b.toNat ≤ 0x39) ∧
      name = [0x54, 0x49, 0x4D] ++ ds ++ [0x5F, 0x43, 0x48] ++ cs ∧
      n = decimal ds ∧ c = decimal cs) ∧
  (∀ (name : Bytes) (n c : Nat), classify name = .ocn n c ↔
    ∃ ds cs : Bytes, ds ≠ [] ∧ cs ≠ [] ∧ (∀ b ∈ ds ++ cs, 0x30 ≤ b.toNat ∧ b.toNat ≤ 0x39) ∧
      name = [0x54, 0x49, 0x4D] ++ ds ++ [0x5F, 0x43, 0x48] ++ cs ++ [0x4E] ∧
      n = decimal ds ∧ c = decimal cs) ∧
  (∀ (ds : Bytes) (d : Byte), decimal (ds ++ [d]) = 10 * decimal ds + (d.toNat - 0x30)) ∧
  (∀ ds : Bytes, decimal (0x30 :: ds) = decimal ds)

/-- The numbers of a name that `CAP` may hold are below 2^32, as R83 asks and the `RES_*` registers
need. -/
def Obligations.ChannelNumbersFitTheirRegisters : Prop :=
  ∀ (e : CapEntry) (n c : Nat), e.wf = true → classify e.name = .oc n c ∨ classify e.name = .ocn n c →
    n < 2 ^ 32 ∧ c < 2 ^ 32

/-- R101, R104, R108: with a hint, the first channel entry of the pin's own list whose name starts with
it is selected, complementary names included. (For two rows of one pin, see log 1.) -/
def Obligations.HintSelectsFirstMatch : Prop :=
  ∀ (rows more : List CapPin) (before after : List CapEntry) (e : CapEntry) (pin hint : Bytes)
    (n c : Nat) (inv : Bool), (∀ row ∈ rows, row.pin ≠ pin) →
    hint ≠ [] → classify e.name = (if inv then .ocn n c else .oc n c) → hint <+: e.name →
    (∀ x ∈ before, classify x.name ≠ .other → ¬ hint <+: x.name) →
    resolve (rows ++ ⟨pin, before ++ e :: after⟩ :: more) pin hint =
      .ok ⟨e.altFunction, n, c, inv⟩

/-- R101, R106: without a hint, the first entry of the pin's own list with an OC name is selected; other
names are passed over. (For two rows of one pin, see log 1.) -/
def Obligations.NoHintSelectsFirstUsable : Prop :=
  ∀ (rows more : List CapPin) (before after : List CapEntry) (e : CapEntry) (pin : Bytes)
    (n c : Nat), (∀ row ∈ rows, row.pin ≠ pin) →
    classify e.name = .oc n c → (∀ x ∈ before, ∀ n' c', classify x.name ≠ .oc n' c') →
    resolve (rows ++ ⟨pin, before ++ e :: after⟩ :: more) pin [] = .ok ⟨e.altFunction, n, c, false⟩

/-- R101, R103, R105, R107: which error resolution gives on the pin's own list, the pin's test first.
(For two rows of one pin, see log 1.) -/
def Obligations.ResolutionErrors : Prop :=
  (∀ (cap : List CapPin) (pin hint : Bytes), (∀ row ∈ cap, row.pin ≠ pin) →
    resolve cap pin hint = .error .unsupportedPin) ∧
  ∀ (rows more : List CapPin) (es : List CapEntry) (pin : Bytes), (∀ row ∈ rows, row.pin ≠ pin) →
    (∀ hint : Bytes, (∀ e ∈ es, classify e.name = .other) →
      resolve (rows ++ ⟨pin, es⟩ :: more) pin hint = .error .unsupportedPin) ∧
    (∀ hint : Bytes, (∃ e ∈ es, classify e.name ≠ .other) → hint ≠ [] →
      (∀ e ∈ es, classify e.name ≠ .other → ¬ hint <+: e.name) →
      resolve (rows ++ ⟨pin, es⟩ :: more) pin hint = .error .timerNotFound) ∧
    ((∀ e ∈ es, ∀ n c, classify e.name ≠ .oc n c) →
      resolve (rows ++ ⟨pin, es⟩ :: more) pin [] = .error .unsupportedPin)

/-- R109: `RESOLVE`, its results, its errors with their codes (R78), and its refusals. -/
def Obligations.ResolveCommand : Prop :=
  encode .resolve = .command 0x10000000 ∧
  ∀ (s : State),
    (strOf s.argPin = none ∨ strOf s.argHint = none → ∃ r, exec .resolve s = .refused r) ∧
    ∀ pin hint : Bytes, strOf s.argPin = some pin → strOf s.argHint = some hint →
      (pin = [] → exec .resolve s = .refused .emptyPin) ∧
      (pin ≠ [] → resolve s.board.cap pin hint = .error .unsupportedPin →
        exec .resolve s = .next { s with status := 1 }) ∧
      (pin ≠ [] → resolve s.board.cap pin hint = .error .timerNotFound →
        exec .resolve s = .next { s with status := 2 }) ∧
      (∀ e, resolve s.board.cap pin hint = .error e → e = .unsupportedPin ∨ e = .timerNotFound) ∧
      (∀ r, pin ≠ [] → resolve s.board.cap pin hint = .ok r →
        exec .resolve s = .next { s with
          resAf := BitVec.ofInt 32 r.altFunction, resTimer := BitVec.ofNat 32 r.timerIndex,
          resChannel := BitVec.ofNat 32 r.channelIndex,
          resInverted := if r.inverted then 1 else 0, resDefined := true, status := 0 })

/-! ### Construction and destruction -/

/-- `CONSTRUCT` on admitted operands, with a resolved pair that is free on a timer that can carry it:
the whole next state (R120, R121, R122, R123, R127). -/
def Obligations.ConstructMakesTheChannel : Prop :=
  ∀ (s : State) (slot : SlotNum) (pin hint : Bytes) (r : Resolved),
    s.slots[slot.toNat]? = some none → strOf s.argPin = some pin → strOf s.argHint = some hint →
    pin ≠ [] → 0 ≤ fix s.argLength → 0 ≤ fix s.argFreq →
    (∀ j ch, s.channelAt j = some ch → ch.pinId ≠ pin) →
    resolve s.board.cap pin hint = .ok r →
    let freq : Rat :=
      if fix s.argLength ≠ 0 then 1000000 / fix s.argLength
      else if fix s.argFreq ≠ 0 then fix s.argFreq else 50
    let period : Rat := 1000000 / quantQ Config.platform r.timerIndex freq
    (∀ j ch, s.channelAt j = some ch → ch.timerId = r.timerIndex →
      s.board.timerExclusive = false ∧ ch.channelId ≠ r.channelIndex ∧ ch.periodUs = period) →
    exec (.construct slot) s = .next { s with
      slots := s.slots.set slot.toNat (some
        { pinId := pin, timerId := r.timerIndex, channelId := r.channelIndex,
          inverted := r.inverted, periodUs := period, cur := 0, ramp := none }),
      pinAf := pinAfSet pin r.altFunction s.pinAf, status := 0 }

/-- R126: a `CONSTRUCT` that raises an error writes `STATUS` and nothing else; resolution is tested
before the claim. The codes are those of R78. -/
def Obligations.FailedConstructChangesStatusOnly : Prop :=
  ∀ (s : State) (slot : SlotNum) (pin hint : Bytes),
    s.slots[slot.toNat]? = some none → strOf s.argPin = some pin → strOf s.argHint = some hint →
    pin ≠ [] → 0 ≤ fix s.argLength → 0 ≤ fix s.argFreq →
    (∀ j ch, s.channelAt j = some ch → ch.pinId ≠ pin) →
    (resolve s.board.cap pin hint = .error .unsupportedPin →
      exec (.construct slot) s = .next { s with status := 1 }) ∧
    (resolve s.board.cap pin hint = .error .timerNotFound →
      exec (.construct slot) s = .next { s with status := 2 }) ∧
    (∀ e, resolve s.board.cap pin hint = .error e → e = .unsupportedPin ∨ e = .timerNotFound) ∧
    (∀ r j ch, resolve s.board.cap pin hint = .ok r → s.channelAt j = some ch →
      ch.timerId = r.timerIndex →
      (s.board.timerExclusive = true ∨ ch.channelId = r.channelIndex ∨
        ch.periodUs ≠ realisedPeriod Config.platform r.timerIndex (fix s.argLength) (fix s.argFreq)) →
      exec (.construct slot) s = .next { s with status := 3 })

/-- R128: what `CONSTRUCT` does not admit is refused. -/
def Obligations.ConstructRefusals : Prop :=
  ∀ (s : State) (slot : SlotNum) (pin hint : Bytes),
    strOf s.argPin = some pin → strOf s.argHint = some hint →
    ((∃ ch, s.channelAt slot.toNat = some ch) ∨ pin = [] ∨ fix s.argLength < 0 ∨
      fix s.argFreq < 0 ∨ ∃ j ch, s.channelAt j = some ch ∧ ch.pinId = pin) →
    ∃ r, exec (.construct slot) s = .refused r

/-- R122, with the assumption of R7: the realised period is positive and never above the requested
one, nor above the requested length. -/
def Obligations.RealisedPeriodBound : Prop :=
  ∀ (c : Config) (timer : Nat) (length freq : Rat), 0 ≤ length → 0 ≤ freq →
    let requested : Rat :=
      if length ≠ 0 then 1000000 / length else if freq ≠ 0 then freq else 50
    realisedPeriod c timer length freq = 1000000 / quantQ c timer requested ∧
    0 < requested ∧ requested ≤ quantQ c timer requested ∧
    0 < realisedPeriod c timer length freq ∧
    realisedPeriod c timer length freq ≤ 1000000 / requested ∧
    (length ≠ 0 → realisedPeriod c timer length freq ≤ length)

/-- R129: `DESTROY` empties the slot, releases the claim and discards the ramp, and leaves `pin_af`. -/
def Obligations.DestroyReleasesTheChannel : Prop :=
  ∀ (s : State) (slot : SlotNum),
    (∀ ch, s.channelAt slot.toNat = some ch →
      exec (.destroy slot) s =
        .next { s with slots := s.slots.set slot.toNat none, status := 0 }) ∧
    (s.slots[slot.toNat]? = some none → exec (.destroy slot) s = .refused .slotEmpty) ∧
    (∀ ch t, s.Inv → s.channelAt slot.toNat = some ch → exec (.destroy slot) s = .next t →
      t.claimed ch.timerId ch.channelId = false ∧ t.ramping slot.toNat = false ∧
        t.compareOut slot.toNat = none) ∧
    encode (.destroy slot) = .command (0x3#4 ++ slot ++ 0#24)

/-- R131 (c): `CONSTRUCT`, `DESTROY`, then the same `CONSTRUCT` succeeds twice and leaves the same
state. -/
def Obligations.ConstructDestroyConstruct : Prop :=
  ∀ (s t : State) (slot : SlotNum), exec (.construct slot) s = .next t → t.status = 0 →
    ∃ u, exec (.destroy slot) t = .next u ∧ exec (.construct slot) u = .next t

/-! ### Duty -/

/-- R140: `DUTY_SET` clamps the percentage, cancels a ramp and sets the width exactly. -/
def Obligations.DutySetCommand : Prop :=
  ∀ (s : State) (slot : SlotNum),
    (∀ ch, s.channelAt slot.toNat = some ch →
      let p : Rat := (s.argValue.toInt : Rat) / 65536
      let q : Rat := if p < 0 then 0 else if 100 < p then 100 else p
      exec (.dutySet slot) s = .next { s with
        slots := s.slots.set slot.toNat (some { ch with ramp := none, cur := q * ch.periodUs / 100 }),
        status := 0 }) ∧
    (s.slots[slot.toNat]? = some none → exec (.dutySet slot) s = .refused .slotEmpty) ∧
    encode (.dutySet slot) = .command (0x4#4 ++ slot ++ 0#24)

/-- R141: `DUTY_GET` returns the duty in whole percent, a nearest integer, and changes no channel. -/
def Obligations.DutyGetCommand : Prop :=
  ∀ (s : State) (slot : SlotNum),
    (∀ ch, s.channelAt slot.toNat = some ch → ch.Sound →
      ∃ n : Int, |(n : Rat) - 100 * ch.cur / ch.periodUs| ≤ 1 / 2 ∧ 0 ≤ n ∧ n ≤ 100 ∧
        exec (.dutyGet slot) s = .next { s with
          result := BitVec.ofInt 64 (n * 65536), resultDefined := true, status := 0 }) ∧
    (s.slots[slot.toNat]? = some none → exec (.dutyGet slot) s = .refused .slotEmpty) ∧
    encode (.dutyGet slot) = .command (0x5#4 ++ slot ++ 0#24)

/-- R143: what `DUTY_GET` returns after `DUTY_SET p` is `clamp(p, 0, 100)` rounded, and no tick is
enabled in between. -/
def Obligations.DutyReadsBack : Prop :=
  ∀ (s : State) (slot : SlotNum) (ch : Channel), s.channelAt slot.toNat = some ch →
    0 < ch.periodUs →
    ∃ (t u : State) (n : Int), exec (.dutySet slot) s = .next t ∧ t.ramping slot.toNat = false ∧
      exec (.dutyGet slot) t = .next u ∧ u.result = BitVec.ofInt 64 (n * 65536) ∧
      |(n : Rat) - clamp (fix s.argValue) 0 100| ≤ 1 / 2 ∧
      n = roundQ Config.platform (clamp (fix s.argValue) 0 100)

/-! ### Pulse width and ramps -/

/-- R150: `PW_GET` returns the width rounded to a nearest integer, and changes no channel (for a width
whose rounding `RESULT` can carry). -/
def Obligations.PwGetCommand : Prop :=
  ∀ (s : State) (slot : SlotNum),
    (∀ ch, s.channelAt slot.toNat = some ch → ch.Sound → ch.cur < 2 ^ 47 - 1 / 2 →
      ∃ n : Int, |(n : Rat) - ch.cur| ≤ 1 / 2 ∧ 0 ≤ n ∧ n ≤ ⌈ch.periodUs⌉ ∧
        exec (.pwGet slot) s = .next { s with
          result := BitVec.ofInt 64 (n * 65536), resultDefined := true, status := 0 }) ∧
    (s.slots[slot.toNat]? = some none → exec (.pwGet slot) s = .refused .slotEmpty)

/-- The model's choice (log 5): `PW_GET` completes on every live channel, and where the rounded width
has no pattern `RESULT` receives the next free value. -/
def Obligations.PwGetAlwaysCompletes : Prop :=
  ∀ (s : State) (slot : SlotNum) (ch : Channel), s.channelAt slot.toNat = some ch →
    ∃ v k, exec (.pwGet slot) s =
        .next { s with result := v, resultDefined := true, freeIndex := k, status := 0 } ∧
      (2 ^ 47 ≤ ch.cur → v = Config.platform.freePattern s.freeIndex ∧ k = s.freeIndex + 1)

/-- R152: the immediate write cancels a ramp and sets the clamped width. -/
def Obligations.PwSetImmediate : Prop :=
  ∀ (s : State) (slot : SlotNum), s.argRamp = 0 →
    (∀ ch, s.channelAt slot.toNat = some ch →
      let w : Rat := (s.argValue.toInt : Rat) / 65536
      exec (.pwSet slot) s = .next { s with
        slots := s.slots.set slot.toNat (some { ch with
          ramp := none,
          cur := if w < 0 then 0 else if ch.periodUs < w then ch.periodUs else w }),
        status := 0 }) ∧
    (s.slots[slot.toNat]? = some none → exec (.pwSet slot) s = .refused .slotEmpty) ∧
    encode (.pwSet slot) = .command (0x6#4 ++ slot ++ 0#24)

/-- R153, R154, R155: the timed write stores the clamped target and the step, and moves nothing. -/
def Obligations.PwSetTimed : Prop :=
  ∀ (s : State) (slot : SlotNum), 0 < s.argRamp.toInt →
    (∀ ch, s.channelAt slot.toNat = some ch →
      let w : Rat := (s.argValue.toInt : Rat) / 65536
      let ms : Rat := (s.argRamp.toInt : Rat) / 65536
      let target : Rat := if w < 0 then 0 else if ch.periodUs < w then ch.periodUs else w
      exec (.pwSet slot) s = .next { s with
        slots := s.slots.set slot.toNat (some { ch with
          ramp := some { target := target,
                         step := (target - ch.cur) / (ms * 1000 / ch.periodUs) } }),
        status := 0 }) ∧
    (s.slots[slot.toNat]? = some none → exec (.pwSet slot) s = .refused .slotEmpty) ∧
    encode (.pwSet slot) = .command (0x6#4 ++ slot ++ 0#24)

/-- R161: a negative ramp time is refused. -/
def Obligations.PwSetNegativeRampIsRefused : Prop :=
  ∀ (s : State) (slot : SlotNum) (ch : Channel), s.channelAt slot.toNat = some ch →
    s.argRamp.toInt < 0 → exec (.pwSet slot) s = .refused .negativeRamp

/-- R156: the tick advances, or snaps and deregisters; when it is not enabled it does nothing. -/
def Obligations.TickEvent : Prop :=
  ∀ (s : State) (slot : SlotNum),
    (∀ ch r, s.channelAt slot.toNat = some ch → ch.ramp = some r →
      |ch.cur - r.target| > |r.step| →
      exec (.tick slot) s = .next { s with
        slots := s.slots.set slot.toNat (some { ch with cur := ch.cur + r.step }) }) ∧
    (∀ ch r, s.channelAt slot.toNat = some ch → ch.ramp = some r →
      |ch.cur - r.target| ≤ |r.step| →
      exec (.tick slot) s = .next { s with
        slots := s.slots.set slot.toNat (some { ch with cur := r.target, ramp := none }) }) ∧
    (s.ramping slot.toNat = false → exec (.tick slot) s = .next s)

/-- R159: how many ticks a ramp takes. With `n = r * 1000 / period_us`, the width after `k < n` ticks
is `w0 + k * step`, and from tick number `ceil(n)` on (from the first, if there is no distance) the
channel is `Idle` at its target. -/
def Obligations.RampEndsAtItsTick : Prop :=
  ∀ (s : State) (slot : SlotNum) (ch : Channel), s.channelAt slot.toNat = some ch →
    0 < ch.periodUs → 0 < s.argRamp.toInt →
    let target : Rat := clamp (fix s.argValue) 0 ch.periodUs
    let n : Rat := fix s.argRamp * 1000 / ch.periodUs
    let stride : Rat := (target - ch.cur) / n
    ∃ t, exec (.pwSet slot) s = .next t ∧
      (∀ k : Nat, (k : Rat) < n → target ≠ ch.cur →
        ∃ u, ticks slot k t = .next u ∧ u.channelAt slot.toNat =
          some { ch with cur := ch.cur + k * stride, ramp := some ⟨target, stride⟩ }) ∧
      (∀ k : Nat, n ≤ k ∨ (target = ch.cur ∧ 1 ≤ k) →
        ∃ u, ticks slot k t = .next u ∧
          u.channelAt slot.toNat = some { ch with cur := target, ramp := none })

/-- R160: an advancing tick makes the distance smaller by exactly the size of the step, and the width
stays on its side of the target. -/
def Obligations.RampIsMonotone : Prop :=
  ∀ (s : State) (slot : SlotNum) (ch : Channel) (r : Ramp),
    s.channelAt slot.toNat = some ch → ch.ramp = some r → r.Fits ch →
    |ch.cur - r.target| > |r.step| →
    ∃ t ch', exec (.tick slot) s = .next t ∧ t.channelAt slot.toNat = some ch' ∧
      |ch'.cur - r.target| = |ch.cur - r.target| - |r.step| ∧
      0 < (ch.cur - r.target) * (ch'.cur - r.target)

/-- R166: an immediate write leaves the channel `Idle`, and no number of ticks changes anything. -/
def Obligations.ImmediateWriteCancels : Prop :=
  ∀ (s : State) (slot : SlotNum) (ch : Channel), s.channelAt slot.toNat = some ch →
    s.argRamp = 0 →
    ∃ t, exec (.pwSet slot) s = .next t ∧ t.ramping slot.toNat = false ∧
      ∀ k, ticks slot k t = .next t

/-- R163: an immediate write made twice leaves the state it leaves once. -/
def Obligations.ImmediateWriteIsIdempotent : Prop :=
  ∀ (s t : State) (slot : SlotNum), s.argRamp = 0 → exec (.pwSet slot) s = .next t →
    exec (.pwSet slot) t = .next t

/-- R162: a timed write does not change the compare output of any slot, and enables the tick. -/
def Obligations.TimedWriteMovesNothing : Prop :=
  ∀ (s t : State) (slot : SlotNum), 0 < s.argRamp.toInt → exec (.pwSet slot) s = .next t →
    (∀ j, t.compareOut j = s.compareOut j) ∧ t.callbackEnable slot.toNat = some true

/-! ### Rules about every step -/

/-- The invariant of 10_state.md section 2 holds after every step from a state that has it (R26, R29,
R125). -/
def Obligations.StepKeepsInvariant : Prop :=
  ∀ s t : State, s.Inv → step s = .next t → t.Inv

/-- The invariant holds after reset. Three of its clauses hold there by the model's choice, and not by a
rule of the spec: `RES_INVERTED` is 0 or 1 because its field, which R38 leaves unspecified, holds the 0
of log 8; `CAP` is in range because its rows outside R5 are left out (log 1); `pin_af` has the canonical
form of log 17. -/
def Obligations.ResetHasInvariant : Prop := State.reset.Inv

/-- Abstract commands keep the invariant too, on every implementation and for rational operands that
the port could not carry (R70, R26). -/
def Obligations.AbstractCommandKeepsInvariant : Prop :=
  ∀ (c : Config) (cmd : Command) (s t : State), s.Inv → Command.run c s cmd = .next t → t.Inv

/-- A command word runs the abstract command that its operand registers give (R70). -/
def Obligations.WordRunsAbstractCommand : Prop :=
  ∀ (i : Instr) (s : State) (cmd : Command), commandOf s i = some cmd →
    exec i s = Command.run Config.platform s cmd

/-- R28: a live channel's binding and period never change: a step keeps them, unless it performs
`DESTROY` of that very slot (word 0x3s000000 written to `CMD`), which empties it. -/
def Obligations.BindingNeverChanges : Prop :=
  ∀ (s t : State) (i : Nat) (ch : Channel), step s = .next t → s.channelAt i = some ch →
    (∃ ch', t.channelAt i = some ch' ∧ ch'.SameBinding ch) ∨
      (t.channelAt i = none ∧ ∃ (slot : SlotNum) (rest : List PortEvent), slot.toNat = i ∧
        s.inbox = .write 0x00 32 (0x3#4 ++ slot ++ 0#24) :: rest)

/-- R51: no command and no tick writes the capability table; the number of slots is fixed too (R6). -/
def Obligations.CapabilityTableNeverChanges : Prop :=
  ∀ s t : State, step s = .next t → t.board = s.board ∧ t.slots.length = s.slots.length

/-- An instruction leaves every other slot, every operand register, `CMD` and the ports' inputs as
they were (R55, R57). -/
def Obligations.InstructionFrame : Prop :=
  ∀ (i : Instr) (s t : State), exec i s = .next t →
    (∀ j, j ≠ i.slot.toNat ∨ i = .resolve → t.channelAt j = s.channelAt j) ∧
    t.argValue = s.argValue ∧ t.argRamp = s.argRamp ∧ t.argLength = s.argLength ∧
    t.argFreq = s.argFreq ∧ t.argPin = s.argPin ∧ t.argHint = s.argHint ∧ t.cmd = s.cmd ∧
    t.inbox = s.inbox ∧ t.readData = s.readData ∧ t.board = s.board

/-- R215, R216: a next state either carries `STATUS` = 0, or is a tick's, which writes no status, or
is that of a failed `RESOLVE` or `CONSTRUCT`, in which `STATUS` holds the code and nothing else changed. -/
def Obligations.ErrorChangesStatusOnly : Prop :=
  ∀ (i : Instr) (s t : State), exec i s = .next t →
    t.status = 0 ∨ (∃ slot, i = .tick slot ∧ t = { s with slots := t.slots }) ∨
      ((i = .resolve ∨ ∃ slot, i = .construct slot) ∧
        (t = { s with status := 1 } ∨ t = { s with status := 2 } ∨
          (t = { s with status := 3 } ∧ i ≠ .resolve)))

/-- R220: ticks of different slots may be taken in either order. -/
def Obligations.TicksOfDifferentSlotsCommute : Prop :=
  ∀ (s : State) (a b : SlotNum), a ≠ b →
    ∃ t u v, exec (.tick a) s = .next t ∧ exec (.tick b) t = .next v ∧
      exec (.tick b) s = .next u ∧ exec (.tick a) u = .next v

/-- R30: a pin reads back the alternate function last written for it, and a write leaves every other
pin alone. -/
def Obligations.PinFunctionReadsBack : Prop :=
  ∀ (m : List (Bytes × Int)) (p q : Bytes) (a : Int),
    pinAfGet (pinAfSet p a m) q = if q = p then some a else pinAfGet m q

/-- R250: if ticks are taken fairly and nothing touches a ramp, it completes: the channel comes to
rest at the target. -/
def Obligations.FairRampCompletes : Prop :=
  ∀ (ev : Nat → PortEvent) (run : Nat → State) (slot : SlotNum) (n : Nat) (ch : Channel) (r : Ramp),
    OpenRun ev run → FairTicks ev run → (run n).Inv →
    (run n).channelAt slot.toNat = some ch → ch.ramp = some r →
    (∀ m, n ≤ m → (ev m).spares slot (run m)) →
    ∃ m ch', n ≤ m ∧ (run m).channelAt slot.toNat = some ch' ∧
      ch' = { ch with cur := r.target, ramp := none }

/-- R251, with the fairness of R250: an open run with finitely many commands comes to its end, its first
state after the last command in which no tick is enabled. -/
def Obligations.FairRunEnds : Prop :=
  ∀ (ev : Nat → PortEvent) (run : Nat → State) (n : Nat),
    OpenRun ev run → FairTicks ev run → (run 0).Inv → NoCommandFrom ev n →
    ∃ m, OpenRunEndsAt ev run m

/-! ### The consumers (host-side functions over the block's commands: log 19) -/

/-- R187: the Servo's round trip, under its two conditions: no clamp is active, and a microsecond is
at most a degree. -/
def Obligations.ServoAngleRoundTrip : Prop :=
  ∀ (c : Config) (sv : Servo) (s : State) (ch : Channel) (a : Rat),
    s.channelAt sv.slot.toNat = some ch → ch.periodUs < 2 ^ 47 - 1 / 2 →
    90 ≤ |sv.pulseAngle90| →
    let width : Rat := sv.pulseCenter + sv.pulseAngle90 * a / 90
    sv.pulseMin ≤ width → width ≤ sv.pulseMax → 0 ≤ width → width ≤ ch.periodUs →
    ∃ t u n, Command.run c s (servoAngleSet sv a 0) = .next t ∧
      servoAngleGet c sv t = .next (n, u) ∧ |(n : Rat) - a| ≤ 1

/-- R192, R193, R197: `HB_GO_SET` in `ONE_SPEED` mode zeroes the outputs (its first two actions),
then sets the direction level by the sign and the duty to the magnitude, whatever ticks come between
its commands, which change only other channels. It writes no digital pin but its direction pin
(R191). At speed 0 the level is free (log 20). -/
def Obligations.OneSpeedBridge : Prop :=
  ∀ (c : Config) (hb : HBridge) (dirPin : Bytes) (a : SlotNum) (s : State) (ch : Channel)
    (speed : Rat) (between : TickSchedule),
    hb.mode = .oneSpeed dirPin a → s.channelAt a.toNat = some ch →
    let v : Rat := clamp speed (-100) 100
    (hb.goActions c speed).take 2 = hb.mode.zeroing ∧
    hb.mode.zeroing = [.dir dirPin .low, .cmd (.dutySet a 0)] ∧
    (∃ z, runActions c hb.mode.zeroing between (hb.dir, s) = .next (.low, z) ∧
      z.compareOut a.toNat = some 0) ∧
    (∀ pin level, HostAction.dir pin level ∈ hb.goActions c speed → pin = dirPin) ∧
    ∃ hb' t u, bridgeGoSet c hb speed between s = .next (hb', t) ∧ hb'.last = some v ∧
      runActions c (hb.goActions c speed) between (hb.dir, s) = .next (hb'.dir, t) ∧
      (0 < v → hb'.dir = .high) ∧ (v < 0 → hb'.dir = .low) ∧
      t.channelAt a.toNat = some { ch with cur := |v| * ch.periodUs / 100, ramp := none } ∧
      runTicks (between.take (hb.goActions c speed).length).flatten s = .next u ∧
      ∀ j, j ≠ a.toNat → t.channelAt j = u.channelAt j

/-- R192, R194, R197: `HB_GO_SET` in `RUN_COAST` mode zeroes both outputs (its first two actions),
then drives exactly one of the two channels, the other at 0, whatever ticks come between its
commands, which change only other channels. -/
def Obligations.RunCoastBridge : Prop :=
  ∀ (c : Config) (hb : HBridge) (a b : SlotNum) (s : State) (cha chb : Channel) (speed : Rat)
    (between : TickSchedule),
    hb.mode = .runCoast a b → a ≠ b → s.channelAt a.toNat = some cha →
    s.channelAt b.toNat = some chb →
    let v : Rat := clamp speed (-100) 100
    (hb.goActions c speed).take 2 = hb.mode.zeroing ∧
    hb.mode.zeroing = [.cmd (.dutySet a 0), .cmd (.dutySet b 0)] ∧
    (∃ l z, runActions c hb.mode.zeroing between (hb.dir, s) = .next (l, z) ∧
      z.compareOut a.toNat = some 0 ∧ z.compareOut b.toNat = some 0) ∧
    ∃ hb' t u, bridgeGoSet c hb speed between s = .next (hb', t) ∧ hb'.last = some v ∧
      runActions c (hb.goActions c speed) between (hb.dir, s) = .next (hb'.dir, t) ∧
      t.channelAt a.toNat =
        some { cha with cur := max v 0 * cha.periodUs / 100, ramp := none } ∧
      t.channelAt b.toNat =
        some { chb with cur := max (-v) 0 * chb.periodUs / 100, ramp := none } ∧
      runTicks (between.take (hb.goActions c speed).length).flatten s = .next u ∧
      ∀ j, j ≠ a.toNat → j ≠ b.toNat → t.channelAt j = u.channelAt j

/-- R192, R195, R197: `HB_GO_SET` in `RUN_BRAKE` mode zeroes both outputs (its first two actions),
then drives the "off" channel at 100 % and the "on" channel at `100 - m` (at speed 0 both are at 100
%), whatever ticks come between its commands, which change only other channels. -/
def Obligations.RunBrakeBridge : Prop :=
  ∀ (c : Config) (hb : HBridge) (a b : SlotNum) (s : State) (cha chb : Channel) (speed : Rat)
    (between : TickSchedule),
    hb.mode = .runBrake a b → a ≠ b → s.channelAt a.toNat = some cha →
    s.channelAt b.toNat = some chb →
    let v : Rat := clamp speed (-100) 100
    (hb.goActions c speed).take 2 = hb.mode.zeroing ∧
    hb.mode.zeroing = [.cmd (.dutySet a 0), .cmd (.dutySet b 0)] ∧
    (∃ l z, runActions c hb.mode.zeroing between (hb.dir, s) = .next (l, z) ∧
      z.compareOut a.toNat = some 0 ∧ z.compareOut b.toNat = some 0) ∧
    ∃ hb' t u, bridgeGoSet c hb speed between s = .next (hb', t) ∧ hb'.last = some v ∧
      runActions c (hb.goActions c speed) between (hb.dir, s) = .next (hb'.dir, t) ∧
      t.channelAt a.toNat =
        some { cha with cur := (100 - max v 0) * cha.periodUs / 100, ramp := none } ∧
      t.channelAt b.toNat =
        some { chb with cur := (100 - max (-v) 0) * chb.periodUs / 100, ramp := none } ∧
      runTicks (between.take (hb.goActions c speed).length).flatten s = .next u ∧
      ∀ j, j ≠ a.toNat → j ≠ b.toNat → t.channelAt j = u.channelAt j

/-- R191: if a construction of a two-channel `HB_INIT` fails, every slot is as the ticks that came
between its commands left it: as before, if there were none (logs 19, 22). -/
def Obligations.FailedBridgeInitIsUndone : Prop :=
  ∀ (c : Config) (id : Nat) (mode : BridgeMode) (a b : SlotNum) (pinA pinB : Bytes)
    (between : TickSchedule) (s t : State) (code : BitVec 32),
    bridgeInitTwo c id mode a b pinA pinB between s = .next (.error code, t) →
    (between = [] → t.slots = s.slots) ∧
    ∃ u, (runTicks (between.take 1).flatten s = .next u ∨
        runTicks (between.take 3).flatten s = .next u) ∧ t.slots = u.slots

/-- R196: `HB_GO_GET` returns the last commanded speed; before the first one it is a fault. -/
def Obligations.LastSpeedIsReturned : Prop :=
  (∀ (c : Config) (id : Nat) (mode : BridgeMode),
    bridgeGoGet (newBridge c id mode) = .fault .lastSpeedUnwritten) ∧
  ∀ (c : Config) (hb hb' : HBridge) (s t : State) (speed : Rat) (between : TickSchedule),
    bridgeGoSet c hb speed between s = .next (hb', t) →
    bridgeGoGet hb' = .next (clamp speed (-100) 100)
end

