-- ==== Sys2Proof/Laws/State.lean ====
section
/-! SUPPORT. The fields of a state after each named update: one lemma per field per update, so that no
proof unfolds an update. -/

namespace Sys2Proof.Machine

/-! ### `State.setStatus` -/

@[simp] theorem State.setStatus_slots (s : State) (v : BitVec 32) :
    (s.setStatus v).slots = s.slots := rfl
@[simp] theorem State.setStatus_pinAf (s : State) (v : BitVec 32) :
    (s.setStatus v).pinAf = s.pinAf := rfl
@[simp] theorem State.setStatus_cmd (s : State) (v : BitVec 32) :
    (s.setStatus v).cmd = s.cmd := rfl
@[simp] theorem State.setStatus_status (s : State) (v : BitVec 32) :
    (s.setStatus v).status = v := rfl
@[simp] theorem State.setStatus_result (s : State) (v : BitVec 32) :
    (s.setStatus v).result = s.result := rfl
@[simp] theorem State.setStatus_argValue (s : State) (v : BitVec 32) :
    (s.setStatus v).argValue = s.argValue := rfl
@[simp] theorem State.setStatus_argRamp (s : State) (v : BitVec 32) :
    (s.setStatus v).argRamp = s.argRamp := rfl
@[simp] theorem State.setStatus_argLength (s : State) (v : BitVec 32) :
    (s.setStatus v).argLength = s.argLength := rfl
@[simp] theorem State.setStatus_argFreq (s : State) (v : BitVec 32) :
    (s.setStatus v).argFreq = s.argFreq := rfl
@[simp] theorem State.setStatus_argPin (s : State) (v : BitVec 32) :
    (s.setStatus v).argPin = s.argPin := rfl
@[simp] theorem State.setStatus_argHint (s : State) (v : BitVec 32) :
    (s.setStatus v).argHint = s.argHint := rfl
@[simp] theorem State.setStatus_resAf (s : State) (v : BitVec 32) :
    (s.setStatus v).resAf = s.resAf := rfl
@[simp] theorem State.setStatus_resTimer (s : State) (v : BitVec 32) :
    (s.setStatus v).resTimer = s.resTimer := rfl
@[simp] theorem State.setStatus_resChannel (s : State) (v : BitVec 32) :
    (s.setStatus v).resChannel = s.resChannel := rfl
@[simp] theorem State.setStatus_resInverted (s : State) (v : BitVec 32) :
    (s.setStatus v).resInverted = s.resInverted := rfl
@[simp] theorem State.setStatus_board (s : State) (v : BitVec 32) :
    (s.setStatus v).board = s.board := rfl
@[simp] theorem State.setStatus_resultDefined (s : State) (v : BitVec 32) :
    (s.setStatus v).resultDefined = s.resultDefined := rfl
@[simp] theorem State.setStatus_resDefined (s : State) (v : BitVec 32) :
    (s.setStatus v).resDefined = s.resDefined := rfl
@[simp] theorem State.setStatus_inbox (s : State) (v : BitVec 32) :
    (s.setStatus v).inbox = s.inbox := rfl
@[simp] theorem State.setStatus_readData (s : State) (v : BitVec 32) :
    (s.setStatus v).readData = s.readData := rfl
@[simp] theorem State.setStatus_freeIndex (s : State) (v : BitVec 32) :
    (s.setStatus v).freeIndex = s.freeIndex := rfl

/-! ### `State.succeed` -/

@[simp] theorem State.succeed_slots (s : State) :
    s.succeed.slots = s.slots := rfl
@[simp] theorem State.succeed_pinAf (s : State) :
    s.succeed.pinAf = s.pinAf := rfl
@[simp] theorem State.succeed_cmd (s : State) :
    s.succeed.cmd = s.cmd := rfl
@[simp] theorem State.succeed_status (s : State) :
    s.succeed.status = 0 := rfl
@[simp] theorem State.succeed_result (s : State) :
    s.succeed.result = s.result := rfl
@[simp] theorem State.succeed_argValue (s : State) :
    s.succeed.argValue = s.argValue := rfl
@[simp] theorem State.succeed_argRamp (s : State) :
    s.succeed.argRamp = s.argRamp := rfl
@[simp] theorem State.succeed_argLength (s : State) :
    s.succeed.argLength = s.argLength := rfl
@[simp] theorem State.succeed_argFreq (s : State) :
    s.succeed.argFreq = s.argFreq := rfl
@[simp] theorem State.succeed_argPin (s : State) :
    s.succeed.argPin = s.argPin := rfl
@[simp] theorem State.succeed_argHint (s : State) :
    s.succeed.argHint = s.argHint := rfl
@[simp] theorem State.succeed_resAf (s : State) :
    s.succeed.resAf = s.resAf := rfl
@[simp] theorem State.succeed_resTimer (s : State) :
    s.succeed.resTimer = s.resTimer := rfl
@[simp] theorem State.succeed_resChannel (s : State) :
    s.succeed.resChannel = s.resChannel := rfl
@[simp] theorem State.succeed_resInverted (s : State) :
    s.succeed.resInverted = s.resInverted := rfl
@[simp] theorem State.succeed_board (s : State) :
    s.succeed.board = s.board := rfl
@[simp] theorem State.succeed_resultDefined (s : State) :
    s.succeed.resultDefined = s.resultDefined := rfl
@[simp] theorem State.succeed_resDefined (s : State) :
    s.succeed.resDefined = s.resDefined := rfl
@[simp] theorem State.succeed_inbox (s : State) :
    s.succeed.inbox = s.inbox := rfl
@[simp] theorem State.succeed_readData (s : State) :
    s.succeed.readData = s.readData := rfl
@[simp] theorem State.succeed_freeIndex (s : State) :
    s.succeed.freeIndex = s.freeIndex := rfl

/-! ### `State.raise` -/

@[simp] theorem State.raise_slots (s : State) (e : ErrorKind) :
    (s.raise e).slots = s.slots := rfl
@[simp] theorem State.raise_pinAf (s : State) (e : ErrorKind) :
    (s.raise e).pinAf = s.pinAf := rfl
@[simp] theorem State.raise_cmd (s : State) (e : ErrorKind) :
    (s.raise e).cmd = s.cmd := rfl
@[simp] theorem State.raise_status (s : State) (e : ErrorKind) :
    (s.raise e).status = e.code := rfl
@[simp] theorem State.raise_result (s : State) (e : ErrorKind) :
    (s.raise e).result = s.result := rfl
@[simp] theorem State.raise_argValue (s : State) (e : ErrorKind) :
    (s.raise e).argValue = s.argValue := rfl
@[simp] theorem State.raise_argRamp (s : State) (e : ErrorKind) :
    (s.raise e).argRamp = s.argRamp := rfl
@[simp] theorem State.raise_argLength (s : State) (e : ErrorKind) :
    (s.raise e).argLength = s.argLength := rfl
@[simp] theorem State.raise_argFreq (s : State) (e : ErrorKind) :
    (s.raise e).argFreq = s.argFreq := rfl
@[simp] theorem State.raise_argPin (s : State) (e : ErrorKind) :
    (s.raise e).argPin = s.argPin := rfl
@[simp] theorem State.raise_argHint (s : State) (e : ErrorKind) :
    (s.raise e).argHint = s.argHint := rfl
@[simp] theorem State.raise_resAf (s : State) (e : ErrorKind) :
    (s.raise e).resAf = s.resAf := rfl
@[simp] theorem State.raise_resTimer (s : State) (e : ErrorKind) :
    (s.raise e).resTimer = s.resTimer := rfl
@[simp] theorem State.raise_resChannel (s : State) (e : ErrorKind) :
    (s.raise e).resChannel = s.resChannel := rfl
@[simp] theorem State.raise_resInverted (s : State) (e : ErrorKind) :
    (s.raise e).resInverted = s.resInverted := rfl
@[simp] theorem State.raise_board (s : State) (e : ErrorKind) :
    (s.raise e).board = s.board := rfl
@[simp] theorem State.raise_resultDefined (s : State) (e : ErrorKind) :
    (s.raise e).resultDefined = s.resultDefined := rfl
@[simp] theorem State.raise_resDefined (s : State) (e : ErrorKind) :
    (s.raise e).resDefined = s.resDefined := rfl
@[simp] theorem State.raise_inbox (s : State) (e : ErrorKind) :
    (s.raise e).inbox = s.inbox := rfl
@[simp] theorem State.raise_readData (s : State) (e : ErrorKind) :
    (s.raise e).readData = s.readData := rfl
@[simp] theorem State.raise_freeIndex (s : State) (e : ErrorKind) :
    (s.raise e).freeIndex = s.freeIndex := rfl

/-! ### `State.setSlot` -/

@[simp] theorem State.setSlot_slots (s : State) (i : SlotNum) (x : Option Channel) :
    (s.setSlot i x).slots = s.slots.set i.toNat x := rfl
@[simp] theorem State.setSlot_pinAf (s : State) (i : SlotNum) (x : Option Channel) :
    (s.setSlot i x).pinAf = s.pinAf := rfl
@[simp] theorem State.setSlot_cmd (s : State) (i : SlotNum) (x : Option Channel) :
    (s.setSlot i x).cmd = s.cmd := rfl
@[simp] theorem State.setSlot_status (s : State) (i : SlotNum) (x : Option Channel) :
    (s.setSlot i x).status = s.status := rfl
@[simp] theorem State.setSlot_result (s : State) (i : SlotNum) (x : Option Channel) :
    (s.setSlot i x).result = s.result := rfl
@[simp] theorem State.setSlot_argValue (s : State) (i : SlotNum) (x : Option Channel) :
    (s.setSlot i x).argValue = s.argValue := rfl
@[simp] theorem State.setSlot_argRamp (s : State) (i : SlotNum) (x : Option Channel) :
    (s.setSlot i x).argRamp = s.argRamp := rfl
@[simp] theorem State.setSlot_argLength (s : State) (i : SlotNum) (x : Option Channel) :
    (s.setSlot i x).argLength = s.argLength := rfl
@[simp] theorem State.setSlot_argFreq (s : State) (i : SlotNum) (x : Option Channel) :
    (s.setSlot i x).argFreq = s.argFreq := rfl
@[simp] theorem State.setSlot_argPin (s : State) (i : SlotNum) (x : Option Channel) :
    (s.setSlot i x).argPin = s.argPin := rfl
@[simp] theorem State.setSlot_argHint (s : State) (i : SlotNum) (x : Option Channel) :
    (s.setSlot i x).argHint = s.argHint := rfl
@[simp] theorem State.setSlot_resAf (s : State) (i : SlotNum) (x : Option Channel) :
    (s.setSlot i x).resAf = s.resAf := rfl
@[simp] theorem State.setSlot_resTimer (s : State) (i : SlotNum) (x : Option Channel) :
    (s.setSlot i x).resTimer = s.resTimer := rfl
@[simp] theorem State.setSlot_resChannel (s : State) (i : SlotNum) (x : Option Channel) :
    (s.setSlot i x).resChannel = s.resChannel := rfl
@[simp] theorem State.setSlot_resInverted (s : State) (i : SlotNum) (x : Option Channel) :
    (s.setSlot i x).resInverted = s.resInverted := rfl
@[simp] theorem State.setSlot_board (s : State) (i : SlotNum) (x : Option Channel) :
    (s.setSlot i x).board = s.board := rfl
@[simp] theorem State.setSlot_resultDefined (s : State) (i : SlotNum) (x : Option Channel) :
    (s.setSlot i x).resultDefined = s.resultDefined := rfl
@[simp] theorem State.setSlot_resDefined (s : State) (i : SlotNum) (x : Option Channel) :
    (s.setSlot i x).resDefined = s.resDefined := rfl
@[simp] theorem State.setSlot_inbox (s : State) (i : SlotNum) (x : Option Channel) :
    (s.setSlot i x).inbox = s.inbox := rfl
@[simp] theorem State.setSlot_readData (s : State) (i : SlotNum) (x : Option Channel) :
    (s.setSlot i x).readData = s.readData := rfl
@[simp] theorem State.setSlot_freeIndex (s : State) (i : SlotNum) (x : Option Channel) :
    (s.setSlot i x).freeIndex = s.freeIndex := rfl

/-! ### `State.setPinAf` -/

@[simp] theorem State.setPinAf_slots (s : State) (p : Bytes) (a : Int) :
    (s.setPinAf p a).slots = s.slots := rfl
@[simp] theorem State.setPinAf_pinAf (s : State) (p : Bytes) (a : Int) :
    (s.setPinAf p a).pinAf = pinAfSet p a s.pinAf := rfl
@[simp] theorem State.setPinAf_cmd (s : State) (p : Bytes) (a : Int) :
    (s.setPinAf p a).cmd = s.cmd := rfl
@[simp] theorem State.setPinAf_status (s : State) (p : Bytes) (a : Int) :
    (s.setPinAf p a).status = s.status := rfl
@[simp] theorem State.setPinAf_result (s : State) (p : Bytes) (a : Int) :
    (s.setPinAf p a).result = s.result := rfl
@[simp] theorem State.setPinAf_argValue (s : State) (p : Bytes) (a : Int) :
    (s.setPinAf p a).argValue = s.argValue := rfl
@[simp] theorem State.setPinAf_argRamp (s : State) (p : Bytes) (a : Int) :
    (s.setPinAf p a).argRamp = s.argRamp := rfl
@[simp] theorem State.setPinAf_argLength (s : State) (p : Bytes) (a : Int) :
    (s.setPinAf p a).argLength = s.argLength := rfl
@[simp] theorem State.setPinAf_argFreq (s : State) (p : Bytes) (a : Int) :
    (s.setPinAf p a).argFreq = s.argFreq := rfl
@[simp] theorem State.setPinAf_argPin (s : State) (p : Bytes) (a : Int) :
    (s.setPinAf p a).argPin = s.argPin := rfl
@[simp] theorem State.setPinAf_argHint (s : State) (p : Bytes) (a : Int) :
    (s.setPinAf p a).argHint = s.argHint := rfl
@[simp] theorem State.setPinAf_resAf (s : State) (p : Bytes) (a : Int) :
    (s.setPinAf p a).resAf = s.resAf := rfl
@[simp] theorem State.setPinAf_resTimer (s : State) (p : Bytes) (a : Int) :
    (s.setPinAf p a).resTimer = s.resTimer := rfl
@[simp] theorem State.setPinAf_resChannel (s : State) (p : Bytes) (a : Int) :
    (s.setPinAf p a).resChannel = s.resChannel := rfl
@[simp] theorem State.setPinAf_resInverted (s : State) (p : Bytes) (a : Int) :
    (s.setPinAf p a).resInverted = s.resInverted := rfl
@[simp] theorem State.setPinAf_board (s : State) (p : Bytes) (a : Int) :
    (s.setPinAf p a).board = s.board := rfl
@[simp] theorem State.setPinAf_resultDefined (s : State) (p : Bytes) (a : Int) :
    (s.setPinAf p a).resultDefined = s.resultDefined := rfl
@[simp] theorem State.setPinAf_resDefined (s : State) (p : Bytes) (a : Int) :
    (s.setPinAf p a).resDefined = s.resDefined := rfl
@[simp] theorem State.setPinAf_inbox (s : State) (p : Bytes) (a : Int) :
    (s.setPinAf p a).inbox = s.inbox := rfl
@[simp] theorem State.setPinAf_readData (s : State) (p : Bytes) (a : Int) :
    (s.setPinAf p a).readData = s.readData := rfl
@[simp] theorem State.setPinAf_freeIndex (s : State) (p : Bytes) (a : Int) :
    (s.setPinAf p a).freeIndex = s.freeIndex := rfl

/-! ### `State.setResolved` -/

@[simp] theorem State.setResolved_slots (s : State) (r : Resolved) :
    (s.setResolved r).slots = s.slots := rfl
@[simp] theorem State.setResolved_pinAf (s : State) (r : Resolved) :
    (s.setResolved r).pinAf = s.pinAf := rfl
@[simp] theorem State.setResolved_cmd (s : State) (r : Resolved) :
    (s.setResolved r).cmd = s.cmd := rfl
@[simp] theorem State.setResolved_status (s : State) (r : Resolved) :
    (s.setResolved r).status = s.status := rfl
@[simp] theorem State.setResolved_result (s : State) (r : Resolved) :
    (s.setResolved r).result = s.result := rfl
@[simp] theorem State.setResolved_argValue (s : State) (r : Resolved) :
    (s.setResolved r).argValue = s.argValue := rfl
@[simp] theorem State.setResolved_argRamp (s : State) (r : Resolved) :
    (s.setResolved r).argRamp = s.argRamp := rfl
@[simp] theorem State.setResolved_argLength (s : State) (r : Resolved) :
    (s.setResolved r).argLength = s.argLength := rfl
@[simp] theorem State.setResolved_argFreq (s : State) (r : Resolved) :
    (s.setResolved r).argFreq = s.argFreq := rfl
@[simp] theorem State.setResolved_argPin (s : State) (r : Resolved) :
    (s.setResolved r).argPin = s.argPin := rfl
@[simp] theorem State.setResolved_argHint (s : State) (r : Resolved) :
    (s.setResolved r).argHint = s.argHint := rfl
@[simp] theorem State.setResolved_resAf (s : State) (r : Resolved) :
    (s.setResolved r).resAf = BitVec.ofInt 32 r.altFunction := rfl
@[simp] theorem State.setResolved_resTimer (s : State) (r : Resolved) :
    (s.setResolved r).resTimer = BitVec.ofNat 32 r.timerIndex := rfl
@[simp] theorem State.setResolved_resChannel (s : State) (r : Resolved) :
    (s.setResolved r).resChannel = BitVec.ofNat 32 r.channelIndex := rfl
@[simp] theorem State.setResolved_resInverted (s : State) (r : Resolved) :
    (s.setResolved r).resInverted = if r.inverted then 1 else 0 := rfl
@[simp] theorem State.setResolved_board (s : State) (r : Resolved) :
    (s.setResolved r).board = s.board := rfl
@[simp] theorem State.setResolved_resultDefined (s : State) (r : Resolved) :
    (s.setResolved r).resultDefined = s.resultDefined := rfl
@[simp] theorem State.setResolved_resDefined (s : State) (r : Resolved) :
    (s.setResolved r).resDefined = true := rfl
@[simp] theorem State.setResolved_inbox (s : State) (r : Resolved) :
    (s.setResolved r).inbox = s.inbox := rfl
@[simp] theorem State.setResolved_readData (s : State) (r : Resolved) :
    (s.setResolved r).readData = s.readData := rfl
@[simp] theorem State.setResolved_freeIndex (s : State) (r : Resolved) :
    (s.setResolved r).freeIndex = s.freeIndex := rfl

/-! ### `State.returnInt`, whose result register has two cases -/

@[simp] theorem State.returnInt_slots (c : Config) (n : Int) (s : State) :
    (s.returnInt c n).slots = s.slots := by
  unfold State.returnInt; split <;> rfl

@[simp] theorem State.returnInt_pinAf (c : Config) (n : Int) (s : State) :
    (s.returnInt c n).pinAf = s.pinAf := by
  unfold State.returnInt; split <;> rfl

@[simp] theorem State.returnInt_cmd (c : Config) (n : Int) (s : State) :
    (s.returnInt c n).cmd = s.cmd := by
  unfold State.returnInt; split <;> rfl

@[simp] theorem State.returnInt_status (c : Config) (n : Int) (s : State) :
    (s.returnInt c n).status = s.status := by
  unfold State.returnInt; split <;> rfl

@[simp] theorem State.returnInt_argValue (c : Config) (n : Int) (s : State) :
    (s.returnInt c n).argValue = s.argValue := by
  unfold State.returnInt; split <;> rfl

@[simp] theorem State.returnInt_argRamp (c : Config) (n : Int) (s : State) :
    (s.returnInt c n).argRamp = s.argRamp := by
  unfold State.returnInt; split <;> rfl

@[simp] theorem State.returnInt_argLength (c : Config) (n : Int) (s : State) :
    (s.returnInt c n).argLength = s.argLength := by
  unfold State.returnInt; split <;> rfl

@[simp] theorem State.returnInt_argFreq (c : Config) (n : Int) (s : State) :
    (s.returnInt c n).argFreq = s.argFreq := by
  unfold State.returnInt; split <;> rfl

@[simp] theorem State.returnInt_argPin (c : Config) (n : Int) (s : State) :
    (s.returnInt c n).argPin = s.argPin := by
  unfold State.returnInt; split <;> rfl

@[simp] theorem State.returnInt_argHint (c : Config) (n : Int) (s : State) :
    (s.returnInt c n).argHint = s.argHint := by
  unfold State.returnInt; split <;> rfl

@[simp] theorem State.returnInt_resAf (c : Config) (n : Int) (s : State) :
    (s.returnInt c n).resAf = s.resAf := by
  unfold State.returnInt; split <;> rfl

@[simp] theorem State.returnInt_resTimer (c : Config) (n : Int) (s : State) :
    (s.returnInt c n).resTimer = s.resTimer := by
  unfold State.returnInt; split <;> rfl

@[simp] theorem State.returnInt_resChannel (c : Config) (n : Int) (s : State) :
    (s.returnInt c n).resChannel = s.resChannel := by
  unfold State.returnInt; split <;> rfl

@[simp] theorem State.returnInt_resInverted (c : Config) (n : Int) (s : State) :
    (s.returnInt c n).resInverted = s.resInverted := by
  unfold State.returnInt; split <;> rfl

@[simp] theorem State.returnInt_board (c : Config) (n : Int) (s : State) :
    (s.returnInt c n).board = s.board := by
  unfold State.returnInt; split <;> rfl

@[simp] theorem State.returnInt_resultDefined (c : Config) (n : Int) (s : State) :
    (s.returnInt c n).resultDefined = true := by
  unfold State.returnInt; split <;> rfl

@[simp] theorem State.returnInt_resDefined (c : Config) (n : Int) (s : State) :
    (s.returnInt c n).resDefined = s.resDefined := by
  unfold State.returnInt; split <;> rfl

@[simp] theorem State.returnInt_inbox (c : Config) (n : Int) (s : State) :
    (s.returnInt c n).inbox = s.inbox := by
  unfold State.returnInt; split <;> rfl

@[simp] theorem State.returnInt_readData (c : Config) (n : Int) (s : State) :
    (s.returnInt c n).readData = s.readData := by
  unfold State.returnInt; split <;> rfl

/-- `RESULT` where `unfix` of the returned integer is defined. -/
theorem State.returnInt_of_some (c : Config) (s : State) {n : Int} {v : BitVec 64}
    (h : unfix n = some v) :
    s.returnInt c n = { s with result := v, resultDefined := true } := by
  simp [State.returnInt, h]

/-- `RESULT` where it is not. -/
theorem State.returnInt_of_none (c : Config) (s : State) {n : Int} (h : unfix n = none) :
    s.returnInt c n = { s with result := c.freePattern s.freeIndex, resultDefined := true,
                               freeIndex := s.freeIndex + 1 } := by
  simp [State.returnInt, h]

end Sys2Proof.Machine
end

