-- ==== Sys2Proof/Laws/Ops.lean ====
section
/-! SUPPORT. What each shared operation can do, said once: rationals, slots, the pin multiplexer
record, the claim tests. -/

namespace Sys2Proof.Machine

/-! ### Rationals -/

theorem absQ_eq_abs (x : Rat) : absQ x = |x| := by
  unfold absQ
  split
  · rw [abs_of_neg (by assumption)]
  · rw [abs_of_nonneg (by linarith)]

/-- The clamp with ordered bounds is in them, and is the identity on what already is. -/
theorem clamp_mem {x lo hi : Rat} (h : lo ≤ hi) : lo ≤ clamp x lo hi ∧ clamp x lo hi ≤ hi := by
  unfold clamp
  split_ifs <;> constructor <;> linarith

theorem clamp_of_mem {x lo hi : Rat} (h₁ : lo ≤ x) (h₂ : x ≤ hi) : clamp x lo hi = x := by
  unfold clamp
  split_ifs <;> linarith

/-- The one law of `ROUND` (R8). -/
theorem roundQ_near (c : Config) (x : Rat) : |(roundQ c x : Rat) - x| ≤ 1 / 2 := by
  have h₁ : ((x.floor : Int) : Rat) ≤ x := Int.floor_le x
  have h₂ : x < ((x.floor : Int) : Rat) + 1 := Int.lt_floor_add_one x
  simp only [roundQ, abs_le]
  split_ifs <;> push_cast <;> constructor <;> linarith

/-- The one law of `QUANT` (R7). -/
theorem quantQ_ge (c : Config) (timer : Nat) (freq : Rat) : freq ≤ quantQ c timer freq := by
  have := (c.quantExcess timer freq).2
  unfold quantQ
  linarith

/-! ### Slots -/

theorem State.view_live_iff {s : State} {i : SlotNum} {ch : Channel} :
    s.view i = .live ch ↔ s.channelAt i.toNat = some ch := by
  unfold State.view State.channelAt
  rcases s.slots[i.toNat]? with _ | _ | _ <;> simp

theorem State.view_empty_iff {s : State} {i : SlotNum} :
    s.view i = .empty ↔ s.slots[i.toNat]? = some none := by
  unfold State.view
  rcases s.slots[i.toNat]? with _ | _ | _ <;> simp

theorem State.view_absent_iff {s : State} {i : SlotNum} :
    s.view i = .absent ↔ s.slots.length ≤ i.toNat := by
  rw [← List.getElem?_eq_none_iff]
  unfold State.view
  rcases s.slots[i.toNat]? with _ | _ | _ <;> simp

theorem State.channelAt_eq_of_view {s : State} {i : SlotNum} (h : s.view i = .empty) :
    s.channelAt i.toNat = none := by
  rw [State.view_empty_iff] at h
  simp [State.channelAt, h]

/-- A write of a slot that exists is read back there. -/
theorem State.channelAt_setSlot_self {s : State} {i : SlotNum} (x : Option Channel)
    (h : i.toNat < s.slots.length) : (s.setSlot i x).channelAt i.toNat = x := by
  simp [State.channelAt, h]

/-- A write of a slot leaves every other slot alone. -/
theorem State.channelAt_setSlot_ne {s : State} {i : SlotNum} (x : Option Channel) {j : Nat}
    (h : j ≠ i.toNat) : (s.setSlot i x).channelAt j = s.channelAt j := by
  simp [State.channelAt, List.getElem?_set_ne (Ne.symm h)]

@[simp] theorem State.length_setSlot (s : State) (i : SlotNum) (x : Option Channel) :
    (s.setSlot i x).slots.length = s.slots.length := by
  simp

/-- Reading a slot depends on the slot array alone. -/
theorem State.channelAt_congr {s t : State} (h : s.slots = t.slots) (i : Nat) :
    s.channelAt i = t.channelAt i := by
  simp [State.channelAt, h]

theorem State.lt_length_of_channelAt {s : State} {i : Nat} {ch : Channel}
    (h : s.channelAt i = some ch) : i < s.slots.length := by
  by_contra hn
  simp [State.channelAt, List.getElem?_eq_none (Nat.le_of_not_lt hn)] at h

/-- A command on a slot that must be live goes on exactly when the slot is live. -/
theorem onLive_eq_next_iff {i : SlotNum} {s t : State} {k : Channel → Result} :
    onLive i s k = .next t ↔ ∃ ch, s.channelAt i.toNat = some ch ∧ k ch = .next t := by
  unfold onLive
  cases h : s.view i with
  | absent =>
    have : s.channelAt i.toNat = none := by
      rw [State.view_absent_iff] at h
      simp [State.channelAt, h]
    simp [this]
  | empty => simp [State.channelAt_eq_of_view h]
  | live ch =>
    rw [State.view_live_iff] at h
    simp [h]

/-- A command on a live slot is its effect on that channel. -/
theorem onLive_of_live {i : SlotNum} {s : State} {ch : Channel} {k : Channel → Result}
    (h : s.channelAt i.toNat = some ch) : onLive i s k = k ch := by
  simp [onLive, State.view_live_iff.mpr h]

theorem State.mem_live_iff {s : State} {ch : Channel} :
    ch ∈ s.live ↔ ∃ i, s.channelAt i = some ch := by
  rw [State.live, List.mem_filterMap]
  simp [State.channelAt, List.mem_iff_getElem?, Option.join_eq_some_iff]

/-- No live channel has the pin (R128). -/
theorem State.pinBound_eq_false_iff {s : State} {pin : Bytes} :
    s.pinBound pin = false ↔ ∀ i ch, s.channelAt i = some ch → ch.pinId ≠ pin := by
  simp only [State.pinBound, List.any_eq_false, State.mem_live_iff, beq_iff_eq]
  exact ⟨fun h i ch hc => h ch ⟨i, hc⟩, fun h ch ⟨i, hc⟩ => h i ch hc⟩

/-- No live channel has the pair (R29). -/
theorem State.claimed_eq_false_iff {s : State} {t c : Nat} :
    s.claimed t c = false ↔
      ∀ i ch, s.channelAt i = some ch → ¬ (ch.timerId = t ∧ ch.channelId = c) := by
  simp only [State.claimed, List.any_eq_false, State.mem_live_iff, Bool.and_eq_true, beq_iff_eq]
  exact ⟨fun h i ch hc => h ch ⟨i, hc⟩, fun h ch ⟨i, hc⟩ => h i ch hc⟩

/-- The claim test of `CONSTRUCT` passes (R124, R125). -/
theorem State.conflict_eq_false_iff {s : State} {t c : Nat} {p : Rat} :
    s.conflict t c p = false ↔
      ∀ i ch, s.channelAt i = some ch → ch.timerId = t →
        s.board.timerExclusive = false ∧ ch.channelId ≠ c ∧ ch.periodUs = p := by
  simp only [State.conflict, List.any_eq_false, State.mem_live_iff, Bool.and_eq_true,
    Bool.or_eq_true, beq_iff_eq, bne_iff_ne, ne_eq]
  constructor
  · intro h i ch hc ht
    have := h ch ⟨i, hc⟩
    simp only [ht, true_and, not_or, not_not, Bool.not_eq_true] at this
    exact ⟨this.1.1, this.1.2, this.2⟩
  · rintro h ch ⟨i, hc⟩ ⟨ht, hx⟩
    obtain ⟨h1, h2, h3⟩ := h i ch hc ht
    simp [h1, h2, h3] at hx

/-! ### The pin multiplexer record -/

theorem bytesLt_irrefl : ∀ a : Bytes, bytesLt a a = false
  | [] => rfl
  | a :: as => by simp [bytesLt, bytesLt_irrefl as]

theorem bytesLt_trans : ∀ {a b c : Bytes}, bytesLt a b = true → bytesLt b c = true →
    bytesLt a c = true
  | [], [], _, h, _ => by simp [bytesLt] at h
  | _ :: _, [], _, h, _ => by simp [bytesLt] at h
  | _, _ :: _, [], _, h => by simp [bytesLt] at h
  | [], _ :: _, _ :: _, _, _ => by simp [bytesLt]
  | a :: as, b :: bs, c :: cs, h, h' => by
    simp only [bytesLt] at h h' ⊢
    by_cases hab : a = b
    · subst hab
      by_cases hac : a = c
      · subst hac
        simp only [if_true] at h h' ⊢
        exact bytesLt_trans h h'
      · simpa [hac] using h'
    · by_cases hbc : b = c
      · subst hbc
        simpa [hab] using h
      · simp only [hab, hbc, if_false, decide_eq_true_eq] at h h'
        have hac : a ≠ c := by rintro rfl; omega
        simp only [hac, if_false, decide_eq_true_eq]
        omega

/-- Of two different pin identifiers one comes first. -/
theorem bytesLt_total : ∀ {a b : Bytes}, a ≠ b → bytesLt a b = false → bytesLt b a = true
  | [], [], h, _ => absurd rfl h
  | [], _ :: _, _, h => by simp [bytesLt] at h
  | _ :: _, [], _, _ => by simp [bytesLt]
  | a :: as, b :: bs, h, h' => by
    by_cases hab : a = b
    · subst hab
      simp only [bytesLt, if_true] at h' ⊢
      exact bytesLt_total (by simpa using h) h'
    · have hne : a.toNat ≠ b.toNat := fun e => hab (BitVec.eq_of_toNat_eq e)
      simp only [bytesLt, hab, Ne.symm hab, if_false, decide_eq_false_iff_not, decide_eq_true_eq]
        at h' ⊢
      omega

theorem mem_pinAfSet {p : Bytes} {a : Int} {x : Bytes × Int} :
    ∀ {m : List (Bytes × Int)}, x ∈ pinAfSet p a m → x = (p, a) ∨ x ∈ m
  | [], h => by simpa [pinAfSet] using h
  | (q, b) :: rest, h => by
    simp only [pinAfSet] at h
    split_ifs at h
    · simp only [List.mem_cons] at h ⊢
      tauto
    · simp only [List.mem_cons] at h ⊢
      tauto
    · rcases List.mem_cons.mp h with h | h
      · exact .inr (by simp [h])
      · rcases mem_pinAfSet h with h | h
        · exact .inl h
        · exact .inr (List.mem_cons_of_mem _ h)

/-- The one operation on `pin_af` keeps its canonical form (log 17). -/
theorem pinAfSet_wf {p : Bytes} {a : Int} :
    ∀ {m : List (Bytes × Int)}, PinAf.wf m → PinAf.wf (pinAfSet p a m)
  | [], _ => by simp [pinAfSet, PinAf.wf]
  | (q, b) :: rest, h => by
    obtain ⟨hq, hr⟩ := List.pairwise_cons.mp h
    simp only [pinAfSet]
    split_ifs with h₁ h₂
    · subst h₁
      exact List.pairwise_cons.mpr ⟨hq, hr⟩
    · refine List.pairwise_cons.mpr ⟨fun x hx => ?_, h⟩
      rcases List.mem_cons.mp hx with rfl | hx
      · exact h₂
      · exact bytesLt_trans h₂ (hq x hx)
    · refine List.pairwise_cons.mpr ⟨fun x hx => ?_, pinAfSet_wf hr⟩
      rcases mem_pinAfSet hx with rfl | hx
      · exact bytesLt_total h₁ (by simpa using h₂)
      · exact hq x hx

/-! ### Strings -/

/-- A command that reads the string registers goes on exactly when both are well formed (R75). -/
theorem withStrings_eq_next_iff {s t : State} {k : Bytes → Bytes → Result} :
    withStrings s k = .next t ↔
      ∃ pin hint, strOf s.argPin = some pin ∧ strOf s.argHint = some hint ∧ k pin hint = .next t := by
  unfold withStrings
  cases strOf s.argPin <;> cases strOf s.argHint <;> simp

theorem withStrings_of_some {s : State} {k : Bytes → Bytes → Result} {pin hint : Bytes}
    (hp : strOf s.argPin = some pin) (hh : strOf s.argHint = some hint) :
    withStrings s k = k pin hint := by
  simp [withStrings, hp, hh]

end Sys2Proof.Machine
end

