-- ==== Sys2Proof/Laws/Exec.lean ====
section
/-! SUPPORT. What each meaning and the step can do when they answer a next state: the inversion lemmas
that later proofs cite instead of unfolding a meaning. -/

namespace Sys2Proof.Machine

/-- Resolution reads the pin's own row of `CAP`, the first one for that pin (R101; log 1). -/
theorem resolve_of_row {rows more : List CapPin} {es : List CapEntry} {pin hint : Bytes}
    (h : ∀ row ∈ rows, row.pin ≠ pin) :
    resolve (rows ++ ⟨pin, es⟩ :: more) pin hint = resolveIn (some es) hint := by
  have : rows.find? (fun row => row.pin == pin) = none := by
    rw [List.find?_eq_none]
    simpa using h
  simp [resolve, capLookup, List.find?_append, this]

theorem execResolve_eq_next_iff {s t : State} :
    execResolve s = .next t ↔
      ∃ pin hint, strOf s.argPin = some pin ∧ strOf s.argHint = some hint ∧ pin ≠ [] ∧
        ((∃ e, resolve s.board.cap pin hint = .error e ∧ t = s.raise e) ∨
          ∃ r, resolve s.board.cap pin hint = .ok r ∧ t = (s.setResolved r).succeed) := by
  unfold execResolve
  rw [withStrings_eq_next_iff]
  refine exists_congr fun pin => exists_congr fun hint => and_congr_right fun _ =>
    and_congr_right fun _ => ?_
  unfold resolveCmd
  by_cases hp : pin = []
  · simp [hp]
  · cases resolve s.board.cap pin hint <;> simp [hp, eq_comm]

theorem execConstruct_eq_next_iff {i : SlotNum} {s t : State} :
    execConstruct i s = .next t ↔
      ∃ pin hint, strOf s.argPin = some pin ∧ strOf s.argHint = some hint ∧ s.view i = .empty ∧
        pin ≠ [] ∧ 0 ≤ fix s.argLength ∧ 0 ≤ fix s.argFreq ∧ s.pinBound pin = false ∧
        t = construction Config.platform i pin hint (fix s.argLength) (fix s.argFreq) s := by
  unfold execConstruct constructOn
  rw [withStrings_eq_next_iff]
  refine exists_congr fun pin => exists_congr fun hint => and_congr_right fun _ =>
    and_congr_right fun _ => ?_
  unfold constructCmd
  cases s.view i with
  | absent => simp
  | live ch => simp
  | empty =>
    by_cases h1 : pin = []
    · simp [h1]
    by_cases h2 : fix s.argLength < 0
    · simp [h1, h2, not_le.mpr h2]
    by_cases h3 : fix s.argFreq < 0
    · simp [h1, h2, h3, not_le.mpr h3]
    cases h4 : s.pinBound pin <;> simp [h1, h2, h3, not_lt.mp h2, not_lt.mp h3, eq_comm]

/-- What `CONSTRUCT` leaves: an error in `STATUS`, or the new channel with its pin configured. -/
theorem construction_cases (c : Config) (i : SlotNum) (pin hint : Bytes) (length freq : Rat)
    (s : State) :
    (∃ e, construction c i pin hint length freq s = s.raise e ∧
        (e = .unsupportedPin ∨ e = .timerNotFound ∨ e = .channelInUse)) ∨
      ∃ r, resolve s.board.cap pin hint = .ok r ∧
        s.conflict r.timerIndex r.channelIndex (realisedPeriod c r.timerIndex length freq) = false ∧
        construction c i pin hint length freq s =
          ((s.setPinAf pin r.altFunction).setSlot i
            (some (newChannel pin r (realisedPeriod c r.timerIndex length freq)))).succeed := by
  unfold construction
  cases h : resolve s.board.cap pin hint with
  | error e =>
    refine .inl ⟨e, rfl, ?_⟩
    unfold resolve resolveIn at h
    revert h
    split
    · rintro ⟨⟩; simp
    · dsimp only
      split_ifs
      · rintro ⟨⟩; simp
      · split
        · rintro ⟨⟩; simp
        · rintro ⟨⟩
      · split
        · rintro ⟨⟩; simp
        · rintro ⟨⟩
  | ok r =>
    cases hc : s.conflict r.timerIndex r.channelIndex (realisedPeriod c r.timerIndex length freq)
    · exact .inr ⟨r, rfl, hc, by simp [hc]⟩
    · exact .inl ⟨.channelInUse, by simp [hc], by simp⟩

theorem execDestroy_eq_next_iff {i : SlotNum} {s t : State} :
    execDestroy i s = .next t ↔
      ∃ ch, s.channelAt i.toNat = some ch ∧ t = (s.setSlot i none).succeed := by
  simp only [execDestroy, destroyCmd, onLive_eq_next_iff, Host.Outcome.next.injEq, eq_comm (b := t)]

theorem execDutySet_eq_next_iff {i : SlotNum} {s t : State} :
    execDutySet i s = .next t ↔
      ∃ ch, s.channelAt i.toNat = some ch ∧
        t = (s.setSlot i (some (ch.setDuty (fix s.argValue)))).succeed := by
  simp only [execDutySet, dutySetCmd, onLive_eq_next_iff, Host.Outcome.next.injEq, eq_comm (b := t)]

theorem execDutyGet_eq_next_iff {i : SlotNum} {s t : State} :
    execDutyGet i s = .next t ↔
      ∃ ch, s.channelAt i.toNat = some ch ∧
        t = (s.returnInt Config.platform (ch.duty Config.platform)).succeed := by
  simp only [execDutyGet, dutyGetOn, onLive_eq_next_iff, Host.Outcome.next.injEq, eq_comm (b := t)]

theorem execPwGet_eq_next_iff {i : SlotNum} {s t : State} :
    execPwGet i s = .next t ↔
      ∃ ch, s.channelAt i.toNat = some ch ∧
        t = (s.returnInt Config.platform (roundQ Config.platform ch.cur)).succeed := by
  simp only [execPwGet, pwGetOn, onLive_eq_next_iff, Host.Outcome.next.injEq, eq_comm (b := t)]

theorem execPwSet_eq_next_iff {i : SlotNum} {s t : State} :
    execPwSet i s = .next t ↔
      ∃ ch, s.channelAt i.toNat = some ch ∧
        ((fix s.argRamp = 0 ∧ t = (s.setSlot i (some (ch.setWidth (fix s.argValue)))).succeed) ∨
          (0 < fix s.argRamp ∧
            t = (s.setSlot i (some (ch.startRamp (fix s.argValue) (fix s.argRamp)))).succeed)) := by
  simp only [execPwSet, pwSetCmd, onLive_eq_next_iff]
  refine exists_congr fun ch => and_congr_right fun _ => ?_
  rcases lt_trichotomy (fix s.argRamp) 0 with h | h | h
  · simp [h, h.ne, h.le]
  · simp [h, eq_comm (b := t)]
  · simp [h, h.ne', not_lt.mpr h.le, eq_comm (b := t)]

/-- A tick always answers a next state (R164): it moves a `Ramping` channel, or changes nothing. -/
theorem execTick_eq_next (i : SlotNum) (s : State) :
    (∃ ch r, s.channelAt i.toNat = some ch ∧ ch.ramp = some r ∧
        execTick i s = .next (s.setSlot i (some (ch.tick r)))) ∨
      (s.ramping i.toNat = false ∧ execTick i s = .next s) := by
  unfold execTick
  cases h : s.view i with
  | absent =>
    have : s.channelAt i.toNat = none := by
      rw [State.view_absent_iff] at h
      simp [State.channelAt, h]
    exact .inr ⟨by simp [State.ramping, this], rfl⟩
  | empty => exact .inr ⟨by simp [State.ramping, State.channelAt_eq_of_view h], rfl⟩
  | live ch =>
    rw [State.view_live_iff] at h
    cases hr : ch.ramp with
    | none => exact .inr ⟨by simp [State.ramping, h, hr], by simp [hr]⟩
    | some r => exact .inl ⟨ch, r, h, hr, by simp [hr]⟩

/-- A completed bus access changes an operand register or the read data, and nothing else. -/
theorem fetchEvent_access_next {e : PortEvent} {s t : State}
    (h : fetchEvent e s = .access (.next t)) :
    t = { s with argValue := t.argValue, argRamp := t.argRamp, argLength := t.argLength,
                 argFreq := t.argFreq, argPin := t.argPin, argHint := t.argHint,
                 readData := t.readData } := by
  cases e with
  | strobe i => simp [fetchEvent] at h
  | read off w =>
    simp only [fetchEvent, Fetched.access.injEq, busRead] at h
    revert h
    split
    · split_ifs
      · split
        · rintro ⟨⟩; rfl
        · rintro ⟨⟩
      · rintro ⟨⟩
    · split_ifs <;> rintro ⟨⟩
  | write off w d =>
    simp only [fetchEvent, busWrite] at h
    revert h
    split
    · rename_i r _
      split_ifs
      · cases r <;> simp only [State.writeReg] <;> rintro ⟨⟩ <;> rfl
      · rintro ⟨⟩
    · split_ifs
      · rintro ⟨⟩; rfl
      · rintro ⟨⟩

/-- An event that brings an instruction is a strobe, or a write of `CMD`, which keeps the word. -/
theorem fetchEvent_instr {e : PortEvent} {s s' : State} {p : PortWord}
    (h : fetchEvent e s = .instr p s') :
    (∃ i, e = .strobe i ∧ p = .strobe i ∧ s' = s) ∨
      ∃ w, p = .command w ∧ s' = { s with cmd := w } := by
  cases e with
  | strobe i =>
    simp only [fetchEvent, Fetched.instr.injEq] at h
    exact .inl ⟨i, rfl, h.1.symm, h.2.symm⟩
  | read off w => simp [fetchEvent] at h
  | write off w d =>
    refine .inr ?_
    simp only [fetchEvent, busWrite] at h
    revert h
    split
    · rename_i r _
      split_ifs
      · cases r <;> simp only [State.writeReg] <;> rintro ⟨⟩
        exact ⟨_, rfl, rfl⟩
      · rintro ⟨⟩
    · split_ifs <;> rintro ⟨⟩

/-- What a step can do when it answers a next state: nothing comes, a bus access completes, or the
decoded instruction runs. -/
theorem step_next_cases {s t : State} (h : step s = .next t) :
    (s.inbox = [] ∧ t = s) ∨
      ∃ e rest, s.inbox = e :: rest ∧
        (fetchEvent e { s with inbox := rest } = .access (.next t) ∨
          ∃ p s' i, fetchEvent e { s with inbox := rest } = .instr p s' ∧
            decodeFor s'.slots.length p = .ok i ∧ exec i s' = .next t) := by
  unfold step at h
  revert h
  split
  · rename_i hi
    rintro ⟨⟩
    exact .inl ⟨hi, rfl⟩
  · rename_i e rest hi
    split
    · rename_i r hf
      rintro rfl
      exact .inr ⟨e, rest, hi, .inl hf⟩
    · rename_i p s' hf
      split
      · rintro ⟨⟩
      · rename_i i hd
        intro hx
        exact .inr ⟨e, rest, hi, .inr ⟨p, s', i, hf, hd, hx⟩⟩

end Sys2Proof.Machine
end

