-- ==== Sys2Proof/Laws/Host.lean ====
section
/-! SUPPORT. What ticks in a row can do, and what the operations of a host can do when they answer a
next state. -/

namespace Sys2Proof.Machine

theorem andThen_eq_next_iff {α β : Type} {r : Host.Outcome α Fault Refusal}
    {k : α → Host.Outcome β Fault Refusal} {b : β} :
    andThen r k = .next b ↔ ∃ a, r = .next a ∧ k a = .next b := by
  cases r <;> simp [andThen]

@[simp] theorem andThen_next {α β : Type} (a : α) (k : α → Host.Outcome β Fault Refusal) :
    andThen (.next a) k = k a := rfl

/-! ### Ticks in a row -/

@[simp] theorem runTicks_nil (s : State) : runTicks [] s = .next s := rfl

/-- Ticks always complete (R164). They change the slots alone, no slot that no tick names, and no slot
that is not `Ramping` (R156). -/
theorem runTicks_eq_next : ∀ (ts : List SlotNum) (s : State), ∃ t, runTicks ts s = .next t ∧
    t = { s with slots := t.slots } ∧ t.slots.length = s.slots.length ∧
    ∀ j, (∀ i ∈ ts, i.toNat ≠ j) ∨ s.ramping j = false → t.channelAt j = s.channelAt j
  | [], s => ⟨s, rfl, rfl, rfl, fun _ _ => rfl⟩
  | i :: ts, s => by
    rcases execTick_eq_next i s with ⟨ch, r, hc, hr, he⟩ | ⟨-, he⟩
    · obtain ⟨t, ht, hs, hl, hj⟩ := runTicks_eq_next ts (s.setSlot i (some (ch.tick r)))
      refine ⟨t, by rw [runTicks, he, andThen_next, ht], by rw [hs]; rfl, by simpa using hl, ?_⟩
      intro j h
      have hne : j ≠ i.toNat := by
        rintro rfl
        rcases h with h | h
        · exact h i (by simp) rfl
        · simp [State.ramping, hc, hr] at h
      have hsame := State.channelAt_setSlot_ne (s := s) (some (ch.tick r)) hne
      rw [hj j (h.imp (fun h k hk => h k (List.mem_cons_of_mem _ hk)) fun h => ?_), hsame]
      simpa only [State.ramping, hsame] using h
    · obtain ⟨t, ht, hs, hl, hj⟩ := runTicks_eq_next ts s
      exact ⟨t, by rw [runTicks, he, andThen_next, ht], hs, hl, fun j h =>
        hj j (h.imp (fun h k hk => h k (List.mem_cons_of_mem _ hk)) id)⟩

theorem runTicks_append : ∀ (ts us : List SlotNum) (s : State),
    runTicks (ts ++ us) s = andThen (runTicks ts s) (runTicks us)
  | [], _, _ => rfl
  | i :: ts, us, s => by
    rw [List.cons_append, runTicks, runTicks]
    cases execTick i s with
    | next s' => exact runTicks_append ts us s'
    | fault f => rfl
    | refused r => rfl

/-! ### Actions of a host -/

/-- A program of actions in two parts: the second one runs on what the first one leaves. -/
theorem runActions_append (c : Config) : ∀ (first second : List HostAction) (between : TickSchedule)
    (ps : PinLevel × State), runActions c (first ++ second) between ps =
      andThen (runActions c first between ps)
        (runActions c second (between.drop first.length))
  | [], _, _, _ => by simp [runActions]
  | act :: first, second, between, ps => by
    rw [List.cons_append, runActions, runActions]
    cases runTicks (between.headD []) ps.2 with
    | fault f => rfl
    | refused r => rfl
    | next s =>
      rw [andThen_next, andThen_next]
      cases act.run c (ps.1, s) with
      | fault f => rfl
      | refused r => rfl
      | next ps' =>
        rw [andThen_next, andThen_next, runActions_append c first second between.tail ps']
        simp

/-- `HB_GO_SET` completes exactly when its expansion does, and what the HBridge record then is. -/
theorem bridgeGoSet_eq_next_iff {c : Config} {hb hb' : HBridge} {speed : Rat}
    {between : TickSchedule} {s t : State} :
    bridgeGoSet c hb speed between s = .next (hb', t) ↔
      ∃ level, runActions c (hb.goActions c speed) between (hb.dir, s) = .next (level, t) ∧
        hb' = { hb with dir := level, last := some (clamp speed (-100) 100),
                        freeIndex := hb.freeIndex + 1 } := by
  unfold bridgeGoSet
  rw [andThen_eq_next_iff]
  constructor
  · rintro ⟨⟨level, u⟩, h, he⟩
    simp only [Host.Outcome.next.injEq, Prod.mk.injEq] at he
    obtain ⟨rfl, rfl⟩ := he
    exact ⟨level, h, rfl⟩
  · rintro ⟨level, h, rfl⟩
    exact ⟨(level, t), h, rfl⟩

end Sys2Proof.Machine
end

