-- ==== Sys2Proof/Laws/PerInstr.lean ====
section
/-! SUPPORT. Families of statements about every instruction as syntax, one lemma per constructor. -/

namespace Sys2Proof.Laws

/-- The fields of an encoded command (R70): `ZERO` is clear (R73) and `SLOT` is the slot the
instruction names (R72). A strobe carries the slot itself (R80). -/
def EncodedFields.Statement (i : Instr) : Prop :=
  match encode i with
  | .command w => CmdWord.zero w = 0 ∧ CmdWord.slot w = i.slot
  | .strobe slot => slot = i.slot

/-- The fields of a word built from an opcode and a slot. -/
theorem commandWord_fields (op : BitVec 4) (slot : SlotNum) :
    CmdWord.zero (commandWord op slot) = 0 ∧ CmdWord.slot (commandWord op slot) = slot := by
  revert op slot
  decide

theorem EncodedFields.resolve : EncodedFields.Statement .resolve := commandWord_fields _ _

theorem EncodedFields.construct (slot : SlotNum) : EncodedFields.Statement (.construct slot) :=
  commandWord_fields _ _

theorem EncodedFields.destroy (slot : SlotNum) : EncodedFields.Statement (.destroy slot) :=
  commandWord_fields _ _

theorem EncodedFields.dutySet (slot : SlotNum) : EncodedFields.Statement (.dutySet slot) :=
  commandWord_fields _ _

theorem EncodedFields.dutyGet (slot : SlotNum) : EncodedFields.Statement (.dutyGet slot) :=
  commandWord_fields _ _

theorem EncodedFields.pwSet (slot : SlotNum) : EncodedFields.Statement (.pwSet slot) :=
  commandWord_fields _ _

theorem EncodedFields.pwGet (slot : SlotNum) : EncodedFields.Statement (.pwGet slot) :=
  commandWord_fields _ _

theorem EncodedFields.tick (slot : SlotNum) : EncodedFields.Statement (.tick slot) := rfl

end Sys2Proof.Laws
end

