-- ==== Sys2Proof/Tests/Slice0.lean ====
section
/-! SUPPORT. Tests on fixed values: expected results are those of spec/95_test_vectors.md, or are
worked out by hand from the rule that a test's docstring names. Then, for every obligation with
hypotheses, a theorem `witness_<Name>` that shows values that meet them together, clause by clause. -/

namespace Sys2Proof.Tests

/- One theorem after the other: it keeps the memory of a compile small. -/
set_option Elab.async false

open Sys2Proof Sys2Proof.Machine

/-! ### Helpers -/

def nextOf {α : Type} : Host.Outcome α Fault Refusal → Option α
  | .next a => some a
  | .fault _ => none
  | .refused _ => none

def faultOf {α : Type} : Host.Outcome α Fault Refusal → Option Fault
  | .next _ => none
  | .fault f => some f
  | .refused _ => none

def refusalOf {α : Type} : Host.Outcome α Fault Refusal → Option Refusal
  | .next _ => none
  | .fault _ => none
  | .refused r => some r

theorem next_of_nextOf {α : Type} {r : Host.Outcome α Fault Refusal} {a : α}
    (h : nextOf r = some a) : r = .next a := by
  cases r <;> simp_all [nextOf]

theorem next_of_isSome {α : Type} {r : Host.Outcome α Fault Refusal}
    (h : (nextOf r).isSome = true) : ∃ a, r = .next a := by
  cases r <;> simp_all [nextOf]

/-- `"X1"`, `"Y6"`, `"Y7"`, `"X6"`, `"Z9"`. -/
def pinX1 : Bytes := [0x58, 0x31]
def pinY6 : Bytes := [0x59, 0x36]
def pinY7 : Bytes := [0x59, 0x37]
def pinX6 : Bytes := [0x58, 0x36]
def pinZ9 : Bytes := [0x5A, 0x39]

/-- `"TIM"`, then the rest of a name. -/
def tim (rest : Bytes) : Bytes := [0x54, 0x49, 0x4D] ++ rest

/-- `TIM2_CH1`, `TIM5_CH1`, `TIM1_CH1N`, `TIM12_CH1`, `TIM1_CH2N`, `TIM2_ETR`, `TIM3_CH1`. -/
def tim2ch1 : Bytes := tim [0x32, 0x5F, 0x43, 0x48, 0x31]
def tim5ch1 : Bytes := tim [0x35, 0x5F, 0x43, 0x48, 0x31]
def tim1ch1n : Bytes := tim [0x31, 0x5F, 0x43, 0x48, 0x31, 0x4E]
def tim12ch1 : Bytes := tim [0x31, 0x32, 0x5F, 0x43, 0x48, 0x31]
def tim1ch2n : Bytes := tim [0x31, 0x5F, 0x43, 0x48, 0x32, 0x4E]
def tim2etr : Bytes := tim [0x32, 0x5F, 0x45, 0x54, 0x52]
def tim3ch1 : Bytes := tim [0x33, 0x5F, 0x43, 0x48, 0x31]

/-- Rows of the fixture table of 95_test_vectors.md section 2. -/
def board : Board where
  cap := [⟨pinX1, [⟨1, tim2ch1⟩, ⟨2, tim5ch1⟩]⟩, ⟨pinY6, [⟨1, tim1ch1n⟩, ⟨9, tim12ch1⟩]⟩,
    ⟨pinY7, [⟨1, tim1ch2n⟩]⟩, ⟨pinX6, [⟨1, tim2etr⟩, ⟨2, tim3ch1⟩]⟩]
  timerExclusive := false

/-- An implementation with `QUANT(t, f) = f` and 4 slots (95_test_vectors.md section 1). -/
def fixture : Config where
  board := board
  extraSlots := 3
  basePage := 0
  quantExcess := fun _ _ => 0
  tieUp := fun _ => false
  freePattern := fun _ => 0
  freeLevel := fun _ _ => .low
  freeReverseOn := fun _ _ => false

/-- After reset. -/
def fresh : State := State.resetOn fixture

/-- The channel of V-C1 at 1000 us. -/
def chA : Channel := ⟨pinX1, 2, 1, false, 20000, 1000, none⟩

/-- A second channel, `Ramping` from 1000 us to 2000 us, 200 us a tick (95_test_vectors.md P2). -/
def chB : Channel := ⟨pinY6, 12, 1, false, 20000, 1000, some ⟨2000, 200⟩⟩

/-- Slots 0 and 1 live, 2 and 3 `Empty`. -/
def busy : State := { fresh with slots := [some chA, some chB, none, none] }

/-- A state to which one event comes. -/
def given (e : PortEvent) (s : State) : State := { s with inbox := [e] }

/-- `x * 65536` as a register pattern. -/
def fx (n : Int) : BitVec 64 := BitVec.ofInt 64 (n * 65536)

theorem busy_channels {i : Nat} {ch : Channel} (h : busy.channelAt i = some ch) :
    (i = 0 ∧ ch = chA) ∨ (i = 1 ∧ ch = chB) := by
  match i with
  | 0 => exact .inl ⟨rfl, (Option.some.inj h).symm⟩
  | 1 => exact .inr ⟨rfl, (Option.some.inj h).symm⟩
  | 2 => cases h
  | 3 => cases h
  | n + 4 => cases h

theorem fresh_channels {s : State} (h : s.slots = fresh.slots) (i : Nat) : s.channelAt i = none := by
  rw [State.channelAt_congr h]
  match i with
  | 0 => rfl
  | 1 => rfl
  | 2 => rfl
  | 3 => rfl
  | n + 4 => rfl

theorem chA_sound : chA.Sound :=
  ⟨by decide, by norm_num [chA], by norm_num [chA], by norm_num [chA], by simp [chA]⟩

theorem chB_fits : Ramp.Fits chB ⟨2000, 200⟩ :=
  ⟨by norm_num, by norm_num [chB], by norm_num [chB], by norm_num⟩

theorem chB_sound : chB.Sound :=
  ⟨by decide, by norm_num [chB], by norm_num [chB], by norm_num [chB], by
    rintro r ⟨⟩
    exact chB_fits⟩

theorem busy_inv : busy.Inv where
  slot_count := by decide
  sound := by
    intro i ch h
    rcases busy_channels h with ⟨-, rfl⟩ | ⟨-, rfl⟩
    · exact chA_sound
    · exact chB_sound
  compatible := by
    intro i j a b hij ha hb
    rcases busy_channels ha with ⟨rfl, rfl⟩ | ⟨rfl, rfl⟩ <;>
      rcases busy_channels hb with ⟨rfl, rfl⟩ | ⟨rfl, rfl⟩
    · exact absurd rfl hij
    · exact ⟨by decide, by decide, fun _ => rfl, by decide⟩
    · exact ⟨by decide, by decide, fun _ => rfl, by decide⟩
    · exact absurd rfl hij
  board := by decide
  pin_af := by decide
  status_code := by decide
  inverted_bit := by decide

/-! ### Well-formedness: an ill-formed term for each check (R72) -/

theorem test_wf_construct : Instr.wellFormed 4 (.construct 4) = false := by decide
theorem test_wf_destroy : Instr.wellFormed 4 (.destroy 4) = false := by decide
theorem test_wf_dutySet : Instr.wellFormed 4 (.dutySet 15) = false := by decide
theorem test_wf_dutyGet : Instr.wellFormed 1 (.dutyGet 1) = false := by decide
theorem test_wf_pwSet : Instr.wellFormed 4 (.pwSet 4) = false := by decide
theorem test_wf_pwGet : Instr.wellFormed 15 (.pwGet 15) = false := by decide

/-! ### Decoding: words written out as OP, SLOT, ZERO (R70, R71), and a strobe (R80) -/

theorem test_decode_resolve :
    decodeFor 4 (.command 0b0001_0000_000000000000000000000000) = .ok .resolve := rfl
theorem test_decode_construct :
    decodeFor 4 (.command 0b0010_0011_000000000000000000000000) = .ok (.construct 3) := rfl
theorem test_decode_destroy :
    decodeFor 4 (.command 0b0011_0001_000000000000000000000000) = .ok (.destroy 1) := rfl
theorem test_decode_dutySet :
    decodeFor 4 (.command 0b0100_0000_000000000000000000000000) = .ok (.dutySet 0) := rfl
theorem test_decode_dutyGet :
    decodeFor 4 (.command 0b0101_0010_000000000000000000000000) = .ok (.dutyGet 2) := rfl
theorem test_decode_pwSet :
    decodeFor 4 (.command 0b0110_0001_000000000000000000000000) = .ok (.pwSet 1) := rfl
theorem test_decode_pwGet :
    decodeFor 4 (.command 0b0111_0011_000000000000000000000000) = .ok (.pwGet 3) := rfl
theorem test_decode_tick : decodeFor 4 (.strobe 0b0010) = .ok (.tick 2) := rfl

/-- The words that 95_test_vectors.md section 3.2 rejects, on 4 slots. -/
theorem test_decode_rejects :
    decodeFor 4 (.command 0x00000000) = .error (.reservedOpcode 0) ∧
    decodeFor 4 (.command 0x80000000) = .error (.reservedOpcode 8) ∧
    decodeFor 4 (.command 0xF0000000) = .error (.reservedOpcode 15) ∧
    decodeFor 4 (.command 0x11000000) = .error (.resolveSlot 1) ∧
    decodeFor 4 (.command 0x24000000) = .error (.slotOutOfRange 4) ∧
    decodeFor 4 (.command 0x4F000000) = .error (.slotOutOfRange 15) ∧
    decodeFor 4 (.command 0x40000001) = .error .reservedBits ∧
    decodeFor 4 (.command 0x60800000) = .error .reservedBits :=
  ⟨rfl, rfl, rfl, rfl, rfl, rfl, rfl, rfl⟩

/-- The table numbers a command's 32 bits and a strobe's 4. -/
theorem test_table_words :
    decodeTableWord 32 0x7F000000 = some (.pwGet 15) ∧ decodeTableWord 8 0xA = some (.tick 10) ∧
    decodeTableWord 32 0x90000000 = none := ⟨rfl, rfl, rfl⟩

/-- A row's word is fetched by the very next step: `RESOLVE` after reset has an empty pin (R109), and
slot 0 is `Empty` (R226). -/
theorem test_fetch_after_reset :
    step (State.reset.withFetchWord 32 0x10000000) = .refused .emptyPin ∧
    step (State.reset.withFetchWord 32 0x50000000) = .refused .slotEmpty ∧
    step (State.reset.withFetchWord 8 0) = .next State.reset := ⟨rfl, rfl, rfl⟩

/-! ### Operand formats (95_test_vectors.md section 3) -/

theorem test_fix : fix 0x78000 = 15 / 2 ∧ fix 0xFFFFFFFFFFFB0000 = -5 := by decide +kernel

theorem test_unfix : unfix 1333 = some 0x5350000 ∧ unfix (1 / 3) = none ∧
    unfix (2 ^ 47) = none ∧ unfix (-2 ^ 47) = some 0x8000000000000000 := by decide +kernel

theorem test_strings :
    strOf 0x315802 = some pinX1 ∧ strOf 0x10 = none ∧ strOf 0x315801 = none ∧
    packStr pinX1 = 0x315802 := by decide

/-! ### Names and resolution (95_test_vectors.md sections 4 and 5) -/

theorem test_names :
    classify tim12ch1 = .oc 12 1 ∧ classify tim1ch1n = .ocn 1 1 ∧
    classify (tim [0x30, 0x32, 0x5F, 0x43, 0x48, 0x30, 0x31]) = .oc 2 1 ∧
    classify tim2etr = .other ∧ classify (tim1ch1n ++ [0x4E]) = .other ∧
    classify (tim [0x5F, 0x43, 0x48, 0x31]) = .other ∧ classify [] = .other := by decide

/-- V-RES3, V-RES9, V-RES11, V-RES5, V-RES14, V-RES17. -/
theorem test_resolution :
    (resolve board.cap pinX1 (tim [0x35])).toOption = some ⟨2, 5, 1, false⟩ ∧
    (resolve board.cap pinY6 []).toOption = some ⟨9, 12, 1, false⟩ ∧
    (resolve board.cap pinY6 (tim [0x31])).toOption = some ⟨1, 1, 1, true⟩ ∧
    resolve board.cap pinX1 (tim [0x39]) = .error .timerNotFound ∧
    resolve board.cap pinY7 [] = .error .unsupportedPin ∧
    resolve board.cap pinZ9 (tim [0x32]) = .error .unsupportedPin :=
  ⟨by decide, by decide, by decide, rfl, rfl, rfl⟩

/-! ### Instructions -/

/-- `RESOLVE "Y6", "TIM"` (V-RES10). -/
theorem test_resolve :
    (nextOf (exec .resolve { fresh with argPin := packStr pinY6, argHint := packStr (tim []) })).map
      (fun t => (t.status, t.resAf, t.resTimer, t.resChannel, t.resInverted)) =
      some (0, 1, 1, 1, 1) := by decide +kernel

/-- `RESOLVE "Z9"` (V-RES16). -/
theorem test_resolve_error :
    (nextOf (exec .resolve { fresh with argPin := packStr pinZ9 })).map (fun t =>
      (t.status, t.resDefined)) = some (1, false) := by decide +kernel

/-- P1 step 1: `CONSTRUCT 0, pin="X1"`. -/
theorem test_construct :
    (nextOf (constructOn fixture 0 { fresh with argPin := 0x315802 })).map (fun t =>
      (t.status, t.channelAt 0, t.pinFunction pinX1)) =
      some (0, some ⟨pinX1, 2, 1, false, 20000, 0, none⟩, some 1) := by decide +kernel

/-- V-C6: a length of 3 us, which no integer frequency gives. -/
theorem test_construct_length :
    (nextOf (constructOn fixture 3 { fresh with argPin := 0x315802, argLength := fx 3 })).map
      (fun t => (t.channelAt 3).map Channel.periodUs) = some (some 3) := by decide +kernel

theorem test_destroy :
    (nextOf (exec (.destroy 1) busy)).map (fun t => (t.slots, t.claimed 12 1, t.status)) =
      some ([some chA, none, none, none], false, 0) := by decide +kernel

/-- V-D: `DUTY_SET 0, p=7.5` sets 1500 us of 20000. -/
theorem test_dutySet :
    (nextOf (exec (.dutySet 0) { busy with argValue := 0x78000 })).map (fun t =>
      (t.channelAt 0).map Channel.cur) = some (some 1500) := by decide +kernel

/-- 150 % is clamped, and the ramp of slot 1 is cancelled (R140). -/
theorem test_dutySet_clamps :
    (nextOf (exec (.dutySet 1) { busy with argValue := fx 150 })).map (fun t =>
      t.channelAt 1) = some (some { chB with cur := 20000, ramp := none }) := by decide +kernel

/-- 1000 us of 20000 is 5 %. -/
theorem test_dutyGet :
    (nextOf (exec (.dutyGet 0) busy)).map (fun t => (t.result, t.slots)) =
      some (fx 5, busy.slots) := by decide +kernel

/-- A width of 1333.25 us reads as 1333 (R150). -/
theorem test_pwGet :
    (nextOf (exec (.pwGet 0)
      { busy with slots := [some { chA with cur := 5333 / 4 }] })).map State.result =
      some (fx 1333) := by decide +kernel

/-- An immediate write of 25000 us is clamped to the period (R151, R152). -/
theorem test_pwSet_immediate :
    (nextOf (exec (.pwSet 1) { busy with argValue := fx 25000 })).map (fun t => t.channelAt 1) =
      some (some { chB with cur := 20000, ramp := none }) := by decide +kernel

/-- P2: from 1000 us to 2000 us in 100 ms is 5 ticks of 200 us. -/
theorem test_pwSet_timed :
    (nextOf (exec (.pwSet 0) { busy with argValue := fx 2000, argRamp := fx 100 })).map
      (fun t => t.channelAt 0) = some (some { chA with ramp := some ⟨2000, 200⟩ }) := by
  decide +kernel

/-- P2: four ticks advance, the fifth snaps. -/
theorem test_tick :
    (nextOf (ticks 1 4 busy)).map (fun t => t.channelAt 1) =
      some (some { chB with cur := 1800 }) ∧
    (nextOf (ticks 1 5 busy)).map (fun t => t.channelAt 1) =
      some (some { chB with cur := 2000, ramp := none }) := by decide +kernel

/-- A strobe for an idle slot, and one for a slot that does not exist, do nothing (R80). -/
theorem test_tick_disabled :
    nextOf (exec (.tick 0) busy) = some busy ∧ nextOf (exec (.tick 9) busy) = some busy := by
  decide +kernel

/-- A read of `ARG_VALUE` after a write of it, and of `RESULT` before it has a value (R52, R38). -/
theorem test_bus :
    (nextOf (step (given (.write 0x10 64 5) fresh))).map State.argValue = some 5 ∧
    faultOf (step (given (.read 0x08 64) fresh)) = some .readUnwritten ∧
    refusalOf (step (given (.read 0x10 32) fresh)) = some .partialAccess := by decide +kernel

/-! ### Witnesses: encoding and ports -/

theorem witness_DecodeOfEncode :
    Instr.wellFormed 16 (.pwGet 15) = true ∧ Instr.wellFormed 1 (.construct 0) = true ∧
    Instr.wellFormed 1 (.tick 15) = true := by decide

theorem witness_EncodeOfDecode :
    decodeFor 16 (.command 0x7F000000) = .ok (.pwGet 15) ∧
    decodeFor 1 (.strobe 15) = .ok (.tick 15) := ⟨rfl, rfl⟩

/-- Each word of R79 at the ends of its range, then one that is a command. -/
theorem witness_ReservedWordsAreRefused :
    (∀ w : CmdWord, (given (.write 0x00 32 w) fresh).inbox = [.write 0x00 32 w]) ∧
    BitVec.extractLsb' 28 4 (0x00000000 : CmdWord) = 0 ∧
    8 ≤ (BitVec.extractLsb' 28 4 (0x80000000 : CmdWord)).toNat ∧
    BitVec.extractLsb' 0 24 (0x40800000 : CmdWord) ≠ 0 ∧
    BitVec.extractLsb' 24 4 (0x11000000 : CmdWord) ≠ 0 ∧
    fresh.slots.length ≤ (BitVec.extractLsb' 24 4 (0x24000000 : CmdWord)).toNat ∧
    ¬ fresh.slots.length ≤ (BitVec.extractLsb' 24 4 (0x23000000 : CmdWord)).toNat :=
  ⟨fun _ => rfl, by decide, by decide, by decide, by decide, by decide, by decide⟩

theorem witness_StepRunsDecodedInstruction :
    ((given (.write 0x00 32 0x30000000) busy).inbox = [.write 0x00 32 0x30000000] ∧
      decodeFor busy.slots.length (.command 0x30000000) = .ok (.destroy 0)) ∧
    ((given (.strobe 15) busy).inbox = [.strobe 15] ∧
      decodeFor busy.slots.length (.strobe 15) = .ok (.tick 15)) :=
  ⟨⟨rfl, rfl⟩, ⟨rfl, rfl⟩⟩

theorem witness_NoEventNoChange : fresh.inbox = [] := rfl

theorem witness_OperandWriteChangesOneRegister :
    (given (.write 0x10 64 1) fresh).inbox = [.write 0x10 64 1] ∧
    (given (.write 0x18 64 1) fresh).inbox = [.write 0x18 64 1] ∧
    (given (.write 0x20 64 1) fresh).inbox = [.write 0x20 64 1] ∧
    (given (.write 0x28 64 1) fresh).inbox = [.write 0x28 64 1] ∧
    (given (.write 0x30 128 1) fresh).inbox = [.write 0x30 128 1] ∧
    (given (.write 0x40 128 1) fresh).inbox = [.write 0x40 128 1] :=
  ⟨rfl, rfl, rfl, rfl, rfl, rfl⟩

theorem witness_ReadHasNoSideEffect :
    (given (.read 0x40 128) fresh).inbox = [.read 0x40 128] ∧
    step (given (.read 0x40 128) fresh) = .next fresh := ⟨rfl, rfl⟩

/-- A register that always reads, and `RESULT` and the `RES_*` registers once written. -/
theorem witness_ReadDeliversRegister :
    (given (.read 0x40 128) busy).inbox = [.read 0x40 128] ∧
    (0x40#8, 128, busy.argHint) = (0x40#8, 128, (0 : BitVec 128)) ∧
    (given (.read 0x08 64) { busy with resultDefined := true }).resultDefined = true ∧
    (given (.read 0x5C 32) { busy with resDefined := true }).resDefined = true :=
  ⟨rfl, rfl, rfl, rfl⟩

theorem witness_WrongDirectionAccesses :
    (given (.write 0x60 8 1) fresh).inbox = [.write 0x60 8 1] ∧ 0x60 ≤ (0x60#8).toNat ∧
    (given (.write 0x5C 32 1) fresh).inbox = [.write 0x5C 32 1] ∧
    (given (.read 0xFF 64) fresh).inbox = [.read 0xFF 64] ∧ 0x60 ≤ (0xFF#8).toNat ∧
    (given (.read 0x00 32) fresh).inbox = [.read 0x00 32] :=
  ⟨rfl, by decide, rfl, rfl, by decide, rfl⟩

/-- A narrow access of `ARG_VALUE`, and an access inside `RES_INVERTED`. -/
theorem witness_PartialAccessIsRefused :
    ((0x10#8).toNat < 0x60 ∧ (∀ r : Reg, r.offset = 0x10 → r.width ≠ 32) ∧
      (given (.read 0x10 32) fresh).inbox = [.read 0x10 32]) ∧
    ((0x5F#8).toNat < 0x60 ∧ (∀ r : Reg, r.offset = 0x5F → r.width ≠ 8) ∧
      (given (.write 0x5F 8 0) fresh).inbox = [.write 0x5F 8 0]) := by
  refine ⟨⟨by decide, fun r => ?_, rfl⟩, ⟨by decide, fun r => ?_, rfl⟩⟩ <;> cases r <;> decide

theorem witness_UnwrittenResultReadFaults :
    (fresh.resultDefined = false ∧ (given (.read 0x08 64) fresh).inbox = [.read 0x08 64]) ∧
    (fresh.resDefined = false ∧ (given (.read 0x50 32) fresh).inbox = [.read 0x50 32]) :=
  ⟨⟨rfl, rfl⟩, ⟨rfl, rfl⟩⟩

/-! ### Witnesses: operand formats and resolution -/

/-- A string of 15 bytes, the longest, and a pattern whose length byte is 16. -/
theorem witness_StringRegisterFormat :
    strOf 0x0F0E0D0C0B0A0908070605040302010F =
      some [1, 2, 3, 4, 5, 6, 7, 8, 9, 10, 11, 12, 13, 14, 15] ∧
    strOf ({ fresh with argPin := 0x10 } : State).argPin = none ∧
    strOf ({ fresh with argHint := 0x100 } : State).argHint = none := by decide

theorem witness_StringRegisterRoundTrip :
    (List.replicate 15 (0x41 : Byte)).length ≤ 15 ∧ strOf 0 = some [] := by decide

theorem witness_ChannelNumbersFitTheirRegisters :
    CapEntry.wf ⟨1, tim [0x39, 0x39, 0x39, 0x39, 0x39, 0x39, 0x39, 0x39, 0x5F, 0x43, 0x48, 0x31]⟩ = true ∧
    classify (tim [0x39, 0x39, 0x39, 0x39, 0x39, 0x39, 0x39, 0x39, 0x5F, 0x43, 0x48, 0x31]) = .oc 99999999 1 ∧
    CapEntry.wf ⟨-1, tim1ch1n⟩ = true ∧ classify tim1ch1n = .ocn 1 1 := by decide

/-- `"TIM1"` selects `TIM1_CH1N` before `TIM12_CH1`; `"TIM12"` passes over it (V-RES11, V-RES12). -/
theorem witness_HintSelectsFirstMatch :
    (∀ row ∈ board.cap.take 1, row.pin ≠ pinY6) ∧
    (tim [0x31] ≠ [] ∧ classify tim1ch1n = .ocn 1 1 ∧ tim [0x31] <+: tim1ch1n) ∧
    (classify tim12ch1 = .oc 12 1 ∧ tim [0x31, 0x32] <+: tim12ch1 ∧
      ∀ x ∈ [(⟨1, tim1ch1n⟩ : CapEntry)], classify x.name ≠ .other → ¬ tim [0x31, 0x32] <+: x.name) := by
  decide

theorem witness_NoHintSelectsFirstUsable :
    (∀ row ∈ board.cap.take 1, row.pin ≠ pinY6) ∧ classify tim12ch1 = .oc 12 1 ∧
    ∀ x ∈ [(⟨1, tim1ch1n⟩ : CapEntry), ⟨1, tim2etr⟩], ∀ n c, classify x.name ≠ .oc n c := by
  refine ⟨by decide, by decide, ?_⟩
  have h1 : classify tim1ch1n = .ocn 1 1 := by decide
  have h2 : classify tim2etr = .other := by decide
  simp [h1, h2]

theorem witness_ResolutionErrors :
    (∀ row ∈ board.cap, row.pin ≠ pinZ9) ∧ (∀ row ∈ board.cap.take 1, row.pin ≠ pinY6) ∧
    (∀ e ∈ [(⟨1, tim2etr⟩ : CapEntry)], classify e.name = .other) ∧
    ((∃ e ∈ [(⟨1, tim2ch1⟩ : CapEntry)], classify e.name ≠ .other) ∧ tim [0x39] ≠ [] ∧
      ∀ e ∈ [(⟨1, tim2ch1⟩ : CapEntry)], classify e.name ≠ .other → ¬ tim [0x39] <+: e.name) ∧
    (∀ e ∈ [(⟨1, tim1ch2n⟩ : CapEntry)], ∀ n c, classify e.name ≠ .oc n c) := by
  refine ⟨by decide, by decide, by decide, by decide, ?_⟩
  have h1 : classify tim1ch2n = .ocn 1 2 := by decide
  simp [h1]

/-- The operand registers hold `pin` and `hint`. -/
def asks (pin hint : Bytes) (s : State) : State :=
  { s with argPin := packStr pin, argHint := packStr hint }

theorem witness_ResolveCommand :
    (strOf ({ fresh with argPin := 0x10 } : State).argPin = none) ∧
    (strOf (asks [] [] fresh).argPin = some [] ∧ strOf (asks [] [] fresh).argHint = some []) ∧
    (strOf (asks pinX1 (tim []) fresh).argPin = some pinX1 ∧
      strOf (asks pinX1 (tim []) fresh).argHint = some (tim []) ∧ pinX1 ≠ [] ∧
      resolve fresh.board.cap pinX1 (tim []) = .ok ⟨1, 2, 1, false⟩) ∧
    (strOf (asks pinZ9 [] fresh).argPin = some pinZ9 ∧ pinZ9 ≠ [] ∧
      resolve fresh.board.cap pinZ9 [] = .error .unsupportedPin) ∧
    resolve fresh.board.cap pinX1 (tim [0x39]) = .error .timerNotFound :=
  ⟨by decide, ⟨by decide, by decide⟩, ⟨by decide, by decide, by decide, rfl⟩,
    ⟨by decide, by decide, rfl⟩, rfl⟩

/-! ### Witnesses: construction and destruction -/

/-- A channel on the other channel of timer 2, at the period that a default `CONSTRUCT` realises
there: `CONSTRUCT 1, pin="X1"` may share the timer with it. -/
def sharing : State :=
  { asks pinX1 [] fresh with
    slots := [some ⟨pinY7, 2, 2, false, 1000000 / quantQ Config.platform 2 50, 0, none⟩, none] }

theorem sharing_channels {i : Nat} {ch : Channel} (h : sharing.channelAt i = some ch) :
    ch = ⟨pinY7, 2, 2, false, 1000000 / quantQ Config.platform 2 50, 0, none⟩ := by
  match i with
  | 0 => exact (Option.some.inj h).symm
  | 1 => cases h
  | n + 2 => cases h

theorem fix_zero : fix 0 = 0 := by decide +kernel

theorem witness_ConstructMakesTheChannel :
    sharing.slots[(1 : SlotNum).toNat]? = some none ∧ strOf sharing.argPin = some pinX1 ∧
    strOf sharing.argHint = some [] ∧ pinX1 ≠ [] ∧ 0 ≤ fix sharing.argLength ∧
    0 ≤ fix sharing.argFreq ∧ (∀ j ch, sharing.channelAt j = some ch → ch.pinId ≠ pinX1) ∧
    resolve sharing.board.cap pinX1 [] = .ok ⟨1, 2, 1, false⟩ ∧
    (∃ ch, sharing.channelAt 0 = some ch ∧ ch.timerId = 2) ∧
    ∀ j ch, sharing.channelAt j = some ch → ch.timerId = 2 →
      sharing.board.timerExclusive = false ∧ ch.channelId ≠ 1 ∧
        ch.periodUs = 1000000 / quantQ Config.platform 2
          (if fix sharing.argLength ≠ 0 then 1000000 / fix sharing.argLength
            else if fix sharing.argFreq ≠ 0 then fix sharing.argFreq else 50) := by
  refine ⟨rfl, by decide, by decide, by decide, fix_zero.ge, fix_zero.ge, ?_, rfl,
    ⟨_, rfl, rfl⟩, ?_⟩
  · rintro j ch h
    rw [sharing_channels h]
    decide
  · rintro j ch h -
    rw [sharing_channels h, show fix sharing.argLength = 0 from fix_zero,
      show fix sharing.argFreq = 0 from fix_zero]
    exact ⟨rfl, by decide, by simp⟩

/-- An absent pin, a hint that nothing starts with, and the pair of a live channel. -/
theorem witness_FailedConstructChangesStatusOnly :
    ((asks pinZ9 [] fresh).slots[(3 : SlotNum).toNat]? = some none ∧
      strOf (asks pinZ9 [] fresh).argPin = some pinZ9 ∧ strOf (asks pinZ9 [] fresh).argHint = some [] ∧
      0 ≤ fix (asks pinZ9 [] fresh).argLength ∧ 0 ≤ fix (asks pinZ9 [] fresh).argFreq ∧
      (∀ j ch, (asks pinZ9 [] fresh).channelAt j = some ch → ch.pinId ≠ pinZ9) ∧
      resolve (asks pinZ9 [] fresh).board.cap pinZ9 [] = .error .unsupportedPin) ∧
    (strOf (asks pinX1 (tim [0x39]) fresh).argHint = some (tim [0x39]) ∧
      (∀ j ch, (asks pinX1 (tim [0x39]) fresh).channelAt j = some ch → ch.pinId ≠ pinX1) ∧
      resolve fresh.board.cap pinX1 (tim [0x39]) = .error .timerNotFound) ∧
    ((asks pinY6 (tim [0x31, 0x32]) { busy with slots := [some { chB with pinId := pinZ9 }, none] }).channelAt 0 =
        some { chB with pinId := pinZ9 } ∧
      resolve busy.board.cap pinY6 (tim [0x31, 0x32]) = .ok ⟨9, 12, 1, false⟩ ∧
      chB.timerId = 12 ∧ chB.channelId = 1) := by
  refine ⟨⟨rfl, by decide, by decide, fix_zero.ge, fix_zero.ge, ?_, rfl⟩, ⟨by decide, ?_, rfl⟩,
    ⟨rfl, rfl, rfl, rfl⟩⟩
  · intro j ch h
    rw [fresh_channels (s := asks pinZ9 [] fresh) rfl j] at h
    cases h
  · intro j ch h
    rw [fresh_channels (s := asks pinX1 (tim [0x39]) fresh) rfl j] at h
    cases h

theorem witness_ConstructRefusals :
    (strOf (asks pinX1 [] busy).argPin = some pinX1 ∧ strOf (asks pinX1 [] busy).argHint = some [] ∧
      (asks pinX1 [] busy).channelAt (0 : SlotNum).toNat = some chA ∧ chA.pinId = pinX1) ∧
    strOf (asks [] [] fresh).argPin = some [] ∧
    fix ({ fresh with argLength := -1 } : State).argLength < 0 ∧
    fix ({ fresh with argFreq := -1 } : State).argFreq < 0 :=
  ⟨⟨by decide, by decide, rfl, rfl⟩, by decide, by decide +kernel, by decide +kernel⟩

theorem witness_RealisedPeriodBound :
    (0 : Rat) ≤ 0 ∧ (0 : Rat) ≤ 3 ∧ (3 : Rat) ≠ 0 := by norm_num

theorem witness_DestroyReleasesTheChannel :
    busy.Inv ∧ busy.channelAt (1 : SlotNum).toNat = some chB ∧
    busy.slots[(3 : SlotNum).toNat]? = some none ∧ ∃ t, exec (.destroy 1) busy = .next t :=
  ⟨busy_inv, rfl, rfl, _, rfl⟩

theorem witness_ConstructDestroyConstruct :
    ∃ t, exec (.construct 3) (asks pinX1 [] fresh) = .next t ∧ t.status = 0 := by
  have h : (nextOf (exec (.construct 3) (asks pinX1 [] fresh))).map State.status = some 0 := by
    decide +kernel
  rw [Option.map_eq_some_iff] at h
  obtain ⟨t, ht, hs⟩ := h
  exact ⟨t, next_of_nextOf ht, hs⟩

/-! ### Witnesses: duty, pulse width and ramps -/

theorem witness_DutySetCommand :
    busy.channelAt (1 : SlotNum).toNat = some chB ∧ busy.slots[(2 : SlotNum).toNat]? = some none :=
  ⟨rfl, rfl⟩

/-- A channel at the end of its range. -/
def full : State := { fresh with slots := [some { chA with cur := 20000 }, none] }

theorem full_sound : Channel.Sound { chA with cur := 20000 } :=
  ⟨by decide, by norm_num [chA], by norm_num, by norm_num [chA], by simp [chA]⟩

theorem witness_DutyGetCommand :
    full.channelAt (0 : SlotNum).toNat = some { chA with cur := 20000 } ∧
    Channel.Sound { chA with cur := 20000 } ∧ full.slots[(1 : SlotNum).toNat]? = some none :=
  ⟨rfl, full_sound, rfl⟩

theorem witness_DutyReadsBack :
    busy.channelAt (0 : SlotNum).toNat = some chA ∧ 0 < chA.periodUs :=
  ⟨rfl, by norm_num [chA]⟩

theorem witness_PwGetCommand :
    full.channelAt (0 : SlotNum).toNat = some { chA with cur := 20000 } ∧
    Channel.Sound { chA with cur := 20000 } ∧ (20000 : Rat) < 2 ^ 47 - 1 / 2 ∧
    full.slots[(1 : SlotNum).toNat]? = some none :=
  ⟨rfl, full_sound, by norm_num, rfl⟩

/-- A channel whose width is the least that `RESULT` cannot carry. -/
theorem witness_PwGetAlwaysCompletes :
    ({ fresh with slots := [some { chA with cur := 2 ^ 47, periodUs := 2 ^ 48 }] } : State).channelAt
      (0 : SlotNum).toNat = some { chA with cur := 2 ^ 47, periodUs := 2 ^ 48 } ∧
    (2 : Rat) ^ 47 ≤ 2 ^ 47 := ⟨rfl, le_rfl⟩

theorem witness_PwSetImmediate :
    busy.argRamp = 0 ∧ busy.channelAt (1 : SlotNum).toNat = some chB ∧
    busy.slots[(2 : SlotNum).toNat]? = some none := ⟨rfl, rfl, rfl⟩

/-- The shortest ramp time there is. -/
def timed : State := { busy with argRamp := 1, argValue := fx 2000 }

theorem witness_PwSetTimed :
    0 < timed.argRamp.toInt ∧ timed.channelAt (0 : SlotNum).toNat = some chA ∧
    timed.slots[(2 : SlotNum).toNat]? = some none := ⟨by decide, rfl, rfl⟩

theorem witness_PwSetNegativeRampIsRefused :
    ({ busy with argRamp := -1 } : State).channelAt (0 : SlotNum).toNat = some chA ∧
    ({ busy with argRamp := -1 } : State).argRamp.toInt < 0 := ⟨rfl, by decide⟩

/-- A channel at a distance of exactly one step: the least that snaps. -/
def near : State := { fresh with slots := [some { chB with cur := 1800 }, none] }

theorem witness_TickEvent :
    (busy.channelAt (1 : SlotNum).toNat = some chB ∧ chB.ramp = some ⟨2000, 200⟩ ∧
      |chB.cur - 2000| > |(200 : Rat)|) ∧
    (near.channelAt (0 : SlotNum).toNat = some { chB with cur := 1800 } ∧
      |(1800 : Rat) - 2000| ≤ |(200 : Rat)|) ∧
    (busy.ramping (0 : SlotNum).toNat = false ∧ busy.ramping (15 : SlotNum).toNat = false) :=
  ⟨⟨rfl, rfl, by norm_num [chB]⟩, ⟨rfl, by norm_num⟩, ⟨rfl, rfl⟩⟩

/-- P2's ramp: `n` is 5; then a ramp that goes nowhere. -/
theorem witness_RampEndsAtItsTick :
    let s : State := { busy with argRamp := fx 100, argValue := fx 2000 }
    s.channelAt (0 : SlotNum).toNat = some chA ∧ 0 < chA.periodUs ∧ 0 < s.argRamp.toInt ∧
    fix s.argRamp * 1000 / chA.periodUs = 5 ∧ clamp (fix s.argValue) 0 chA.periodUs = 2000 ∧
    clamp (fix (fx 1000)) 0 chA.periodUs = chA.cur := by
  exact ⟨rfl, by norm_num [chA], by decide, by decide +kernel, by decide +kernel, by decide +kernel⟩

theorem witness_RampIsMonotone :
    busy.channelAt (1 : SlotNum).toNat = some chB ∧ chB.ramp = some ⟨2000, 200⟩ ∧
    Ramp.Fits chB ⟨2000, 200⟩ ∧ |chB.cur - 2000| > |(200 : Rat)| :=
  ⟨rfl, rfl, chB_fits, by norm_num [chB]⟩

theorem witness_ImmediateWriteCancels :
    busy.channelAt (1 : SlotNum).toNat = some chB ∧ busy.argRamp = 0 := ⟨rfl, rfl⟩

theorem witness_ImmediateWriteIsIdempotent :
    busy.argRamp = 0 ∧ ∃ t, exec (.pwSet 1) busy = .next t :=
  ⟨rfl, next_of_isSome (by decide +kernel)⟩

theorem witness_TimedWriteMovesNothing :
    0 < timed.argRamp.toInt ∧ ∃ t, exec (.pwSet 0) timed = .next t :=
  ⟨by decide, next_of_isSome (by decide +kernel)⟩

/-! ### Witnesses: rules about every step -/

theorem witness_StepKeepsInvariant :
    (given (.strobe 1) busy).Inv ∧ ∃ t, step (given (.strobe 1) busy) = .next t :=
  ⟨⟨busy_inv.slot_count, busy_inv.sound, busy_inv.compatible, busy_inv.board, busy_inv.pin_af,
    busy_inv.status_code, busy_inv.inverted_bit⟩, _, rfl⟩

theorem witness_AbstractCommandKeepsInvariant :
    busy.Inv ∧ ∃ t, Command.run fixture busy (.pwSet 0 (4000 / 3) (1 / 3)) = .next t :=
  ⟨busy_inv, next_of_isSome (by decide +kernel)⟩

theorem witness_WordRunsAbstractCommand :
    (∃ cmd, commandOf busy (.pwSet 0) = some cmd) ∧
    commandOf (asks pinX1 [] busy) .resolve = some (.resolve pinX1 []) := ⟨⟨_, rfl⟩, by decide⟩

/-- A tick of the channel, and the `DESTROY` that takes it. -/
theorem witness_BindingNeverChanges :
    ((∃ t, step (given (.strobe 1) busy) = .next t) ∧
      (given (.strobe 1) busy).channelAt 1 = some chB) ∧
    ((∃ t, step (given (.write 0x00 32 0x31000000) busy) = .next t ∧ t.channelAt 1 = none) ∧
      (given (.write 0x00 32 0x31000000) busy).channelAt 1 = some chB) :=
  ⟨⟨⟨_, rfl⟩, rfl⟩, ⟨_, rfl, rfl⟩, rfl⟩

theorem witness_CapabilityTableNeverChanges :
    ∃ t, step (given (.strobe 1) busy) = .next t := ⟨_, rfl⟩

theorem witness_InstructionFrame :
    (∃ t, exec (.tick 1) busy = .next t) ∧ (2 : Nat) ≠ (Instr.tick 1).slot.toNat ∧
    ∃ t, exec .resolve (asks pinX1 [] busy) = .next t :=
  ⟨⟨_, rfl⟩, by decide, next_of_isSome (by decide +kernel)⟩

/-- A command that succeeds, a tick, and a command that raises an error. -/
theorem witness_ErrorChangesStatusOnly :
    (∃ t, exec (.destroy 0) busy = .next t) ∧ (∃ t, exec (.tick 1) busy = .next t) ∧
    ∃ t, exec (.construct 3) (asks pinZ9 [] busy) = .next t :=
  ⟨⟨_, rfl⟩, ⟨_, rfl⟩, next_of_isSome (by decide +kernel)⟩

theorem witness_TicksOfDifferentSlotsCommute : (0 : SlotNum) ≠ 15 := by decide

/-! ### A fair run: slot 0 one step from its target, and a strobe for it in every step -/

def rest : State := { near with slots := [some { chB with cur := 2000, ramp := none }, none] }

def strobes (_ : Nat) : PortEvent := .strobe 0

def fairRun : Nat → State
  | 0 => near
  | _ + 1 => rest

theorem near_inv : near.Inv where
  slot_count := by decide
  sound := by
    intro i ch h
    match i with
    | 0 =>
      cases Option.some.inj h
      refine ⟨by decide, by norm_num [chB], by norm_num, by norm_num [chB], ?_⟩
      rintro r ⟨⟩
      exact ⟨by norm_num, by norm_num [chB], by norm_num, by norm_num⟩
    | 1 => cases h
    | n + 2 => cases h
  compatible := by
    intro i j a b hij ha hb
    match i, j with
    | 0, 0 => exact absurd rfl hij
    | 0, 1 => cases hb
    | 0, n + 2 => cases hb
    | 1, _ => cases ha
    | n + 2, _ => cases ha
  board := by decide
  pin_af := by decide
  status_code := by decide
  inverted_bit := by decide

theorem fairRun_open : OpenRun strobes fairRun := by
  intro n
  match n with
  | 0 => exact next_of_nextOf (by decide +kernel)
  | n + 1 => rfl

theorem fairRun_fair : FairTicks strobes fairRun := by
  intro i n
  refine ⟨n, le_rfl, ?_⟩
  by_cases h : i = 0
  · exact .inl (by rw [h]; rfl)
  · refine .inr ?_
    have : i.toNat ≠ 0 := fun e => h (BitVec.eq_of_toNat_eq e)
    obtain ⟨k, hk⟩ := Nat.exists_eq_succ_of_ne_zero this
    rw [hk]
    match n, k with
    | 0, 0 => rfl
    | 0, _ + 1 => rfl
    | _ + 1, 0 => rfl
    | _ + 1, _ + 1 => rfl

theorem witness_FairRampCompletes :
    OpenRun strobes fairRun ∧ FairTicks strobes fairRun ∧ (fairRun 0).Inv ∧
    (fairRun 0).channelAt (0 : SlotNum).toNat = some { chB with cur := 1800 } ∧
    chB.ramp = some ⟨2000, 200⟩ ∧
    ∀ m, 0 ≤ m → (strobes m).spares 0 (fairRun m) := by
  refine ⟨fairRun_open, fairRun_fair, near_inv, rfl, rfl, ?_⟩
  rintro m - p s' ⟨⟩
  exact ⟨by decide, by decide, by decide⟩

theorem witness_FairRunEnds :
    OpenRun strobes fairRun ∧ FairTicks strobes fairRun ∧ (fairRun 0).Inv ∧
    NoCommandFrom strobes 0 ∧ (fairRun 0).ramping 0 = true :=
  ⟨fairRun_open, fairRun_fair, near_inv, fun _ _ => rfl, rfl⟩

/-- The end of a test run does not wait for events that are no commands: of a read and two strobes,
the run ends after the strobe that ends the ramp (R251). -/
theorem test_runEnds :
    ∃ t, RunEndsAt { near with inbox := [.read 0x04 32, .strobe 0, .strobe 0] } 2 t := by
  refine ⟨{ rest with inbox := [.strobe 0] }, next_of_nextOf (by decide +kernel), ⟨by decide, ?_⟩, ?_⟩
  · intro i
    match i with
    | 0 => rfl
    | 1 => rfl
    | n + 2 => rfl
  · intro m u hm hu he
    match m with
    | 0 =>
      cases hu
      exact absurd (he.2 0) (by decide)
    | 1 =>
      cases hu
      exact absurd (he.2 0) (by decide)
    | n + 2 => omega

/-! ### Witnesses: the consumers -/

/-- The Servo of R181 on a 20000 us channel, with 90 us for 90 degrees: one microsecond is one degree. -/
def servo : Servo := ⟨0, 1000, 2000, 1500, 90, 2000⟩

theorem witness_ServoAngleRoundTrip :
    busy.channelAt servo.slot.toNat = some chA ∧ chA.periodUs < 2 ^ 47 - 1 / 2 ∧
    90 ≤ |servo.pulseAngle90| ∧
    servo.pulseMin ≤ servo.pulseCenter + servo.pulseAngle90 * 500 / 90 ∧
    servo.pulseCenter + servo.pulseAngle90 * 500 / 90 ≤ servo.pulseMax ∧
    0 ≤ servo.pulseCenter + servo.pulseAngle90 * 500 / 90 ∧
    servo.pulseCenter + servo.pulseAngle90 * 500 / 90 ≤ chA.periodUs := by
  refine ⟨rfl, ?_, ?_, ?_, ?_, ?_, ?_⟩ <;> norm_num [servo, chA]

def bridge (mode : BridgeMode) : HBridge := newBridge fixture 0 mode

theorem witness_OneSpeedBridge :
    (bridge (.oneSpeed pinX6 0)).mode = .oneSpeed pinX6 0 ∧ busy.channelAt (0 : SlotNum).toNat = some chA ∧
    0 < clamp 250 (-100) 100 ∧ clamp (-250) (-100) 100 < 0 :=
  ⟨rfl, rfl, by decide +kernel, by decide +kernel⟩

theorem witness_RunCoastBridge :
    (bridge (.runCoast 0 1)).mode = .runCoast 0 1 ∧ (0 : SlotNum) ≠ 1 ∧
    busy.channelAt (0 : SlotNum).toNat = some chA ∧ busy.channelAt (1 : SlotNum).toNat = some chB :=
  ⟨rfl, by decide, rfl, rfl⟩

theorem witness_RunBrakeBridge :
    (bridge (.runBrake 0 1)).mode = .runBrake 0 1 ∧ (0 : SlotNum) ≠ 1 ∧
    busy.channelAt (0 : SlotNum).toNat = some chA ∧ busy.channelAt (1 : SlotNum).toNat = some chB :=
  ⟨rfl, by decide, rfl, rfl⟩

/-- A tick of slot 1 comes between the two writes of the output, and advances its ramp (R197). -/
theorem test_ticks_between :
    (nextOf (bridgeGoSet fixture (bridge (.oneSpeed pinX6 0)) 50 [[], [], [1]] busy)).map
      (fun x => (x.1.dir, x.1.last, x.2.slots)) =
      some (.high, some 50, [some { chA with cur := 10000 }, some { chB with cur := 1200 }, none,
        none]) := by decide +kernel

/-- At speed 0 in `RUN_BRAKE` either channel may be the one that is written first (log 27). -/
theorem test_brake_order :
    BridgeMode.driving .low false 0 (.runBrake 0 1) =
      [.cmd (.dutySet 1 100), .cmd (.dutySet 0 100)] ∧
    BridgeMode.driving .low true 0 (.runBrake 0 1) =
      [.cmd (.dutySet 0 100), .cmd (.dutySet 1 100)] := by decide +kernel

theorem failed_bridgeInit {between : TickSchedule}
    (h : (nextOf (bridgeInitTwo fixture 0 (.runCoast 0 1) 0 1 pinX1 pinZ9 between fresh)).map
      (fun x => match x.1 with | .error e => e | .ok _ => 0) = some 1) :
    ∃ t, bridgeInitTwo fixture 0 (.runCoast 0 1) 0 1 pinX1 pinZ9 between fresh =
      .next (.error 1, t) := by
  rw [Option.map_eq_some_iff] at h
  obtain ⟨⟨e | b, t⟩, hx, he⟩ := h
  · exact ⟨t, next_of_nextOf (by rw [hx, ← he])⟩
  · cases he

/-- The second construction asks for a pin that is not in the table: code 1, without ticks and with
ticks before the second and third commands. -/
theorem witness_FailedBridgeInitIsUndone :
    (∃ t, bridgeInitTwo fixture 0 (.runCoast 0 1) 0 1 pinX1 pinZ9 [] fresh = .next (.error 1, t)) ∧
    ∃ t, bridgeInitTwo fixture 0 (.runCoast 0 1) 0 1 pinX1 pinZ9 [[], [2], [0, 3]] fresh =
      .next (.error 1, t) :=
  ⟨failed_bridgeInit (by decide +kernel), failed_bridgeInit (by decide +kernel)⟩

theorem witness_LastSpeedIsReturned :
    ∃ x, bridgeGoSet fixture (bridge (.runBrake 0 1)) 250 [[], [1]] busy = .next x :=
  next_of_isSome (by decide +kernel)

end Sys2Proof.Tests
end

section
/-! PROOFS. The invariant of 10_state.md section 2: what each operation on the state keeps of it, then
each instruction, then the step (O43), and the state after reset (O44, O13). -/

namespace Sys2Proof.Machine

/-! ### Channels in their ranges -/

/-- Coming to rest at a width within the period keeps a channel in its ranges. -/
theorem Channel.Sound.idleAt {ch : Channel} (h : ch.Sound) {w : Rat} (h0 : 0 ≤ w)
    (h1 : w ≤ ch.periodUs) : Channel.Sound { ch with cur := w, ramp := none } where
  pin_length := h.pin_length
  period_pos := h.period_pos
  cur_nonneg := h0
  cur_le := h1
  ramp_fits := by simp

theorem Channel.Sound.clampWidth_mem {ch : Channel} (h : ch.Sound) (w : Rat) :
    0 ≤ ch.clampWidth w ∧ ch.clampWidth w ≤ ch.periodUs :=
  clamp_mem h.period_pos.le

theorem Channel.Sound.setWidth {ch : Channel} (h : ch.Sound) (w : Rat) : (ch.setWidth w).Sound :=
  h.idleAt (h.clampWidth_mem w).1 (h.clampWidth_mem w).2

/-- A percentage clamped to 0 to 100 gives a width within the period (R140). -/
theorem Channel.Sound.setDuty {ch : Channel} (h : ch.Sound) (p : Rat) : (ch.setDuty p).Sound := by
  obtain ⟨hlo, hhi⟩ : 0 ≤ clamp p 0 100 ∧ clamp p 0 100 ≤ 100 := clamp_mem (by norm_num)
  have hperiod := h.period_pos.le
  have hscaled : clamp p 0 100 * ch.periodUs ≤ 100 * ch.periodUs :=
    mul_le_mul_of_nonneg_right hhi hperiod
  exact h.idleAt (by positivity) (by linarith)

/-- The ramp of a timed write fits its channel: the step is the distance divided by a positive number
of ticks (R154, R155). -/
theorem Channel.Sound.startRamp {ch : Channel} (h : ch.Sound) (w : Rat) {r : Rat} (hr : 0 < r) :
    (ch.startRamp w r).Sound := by
  have hticks : 0 < ch.ticksIn r := div_pos (by linarith) h.period_pos
  refine ⟨h.pin_length, h.period_pos, h.cur_nonneg, h.cur_le, ?_⟩
  rintro _ ⟨⟩
  refine ⟨(h.clampWidth_mem w).1, (h.clampWidth_mem w).2, ?_, fun hstep => ?_⟩
  · change 0 ≤ (ch.clampWidth w - ch.cur) / ch.ticksIn r * (ch.clampWidth w - ch.cur)
    rw [div_mul_eq_mul_div]
    exact div_nonneg (mul_self_nonneg _) hticks.le
  · exact sub_eq_zero.mp ((div_eq_zero_iff.mp hstep).resolve_right hticks.ne')

/-- A step shorter than the distance that leads toward the target does not pass it (R160). -/
theorem Ramp.Fits.step_short_of_target {ch : Channel} {r : Ramp} (h : r.Fits ch)
    (hd : |r.step| < |ch.cur - r.target|) :
    (0 ≤ r.step ∧ r.step < r.target - ch.cur) ∨ (r.step ≤ 0 ∧ r.target - ch.cur < r.step) := by
  have htoward := h.toward
  rw [abs_sub_comm] at hd
  rcases lt_trichotomy (r.target - ch.cur) 0 with hneg | hzero | hpos
  · have hstep : r.step ≤ 0 := nonpos_of_mul_nonneg_left htoward hneg
    rw [abs_of_nonpos hstep, abs_of_neg hneg] at hd
    exact .inr ⟨hstep, by linarith⟩
  · rw [hzero, abs_zero] at hd
    exact absurd hd (abs_nonneg _).not_gt
  · have hstep : 0 ≤ r.step := nonneg_of_mul_nonneg_left htoward hpos
    rw [abs_of_nonneg hstep, abs_of_pos hpos] at hd
    exact .inl ⟨hstep, hd⟩

/-- A tick keeps a channel in its ranges: it advances short of the target, or snaps to it (R156). -/
theorem Channel.Sound.tick {ch : Channel} {r : Ramp} (h : ch.Sound) (hr : ch.ramp = some r) :
    (ch.tick r).Sound := by
  have hfits := h.ramp_fits r hr
  have htarget := hfits.target_nonneg
  have hperiod := hfits.target_le
  have hcur := h.cur_nonneg
  have hle := h.cur_le
  unfold Channel.tick
  split_ifs with hd
  · rw [absQ_eq_abs, absQ_eq_abs] at hd
    have hshort := hfits.step_short_of_target hd
    refine ⟨h.pin_length, h.period_pos, ?_, ?_, ?_⟩
    · change 0 ≤ ch.cur + r.step
      rcases hshort with ⟨_, _⟩ | ⟨_, _⟩ <;> linarith
    · change ch.cur + r.step ≤ ch.periodUs
      rcases hshort with ⟨_, _⟩ | ⟨_, _⟩ <;> linarith
    · intro r' hr'
      obtain rfl : r = r' := Option.some.inj (hr.symm.trans hr')
      refine ⟨htarget, hperiod, ?_, fun hzero => ?_⟩
      · change 0 ≤ r.step * (r.target - (ch.cur + r.step))
        rcases hshort with ⟨hstep, hbound⟩ | ⟨hstep, hbound⟩
        · exact mul_nonneg hstep (by linarith)
        · exact mul_nonneg_of_nonpos_of_nonpos hstep (by linarith)
      · change r.target = ch.cur + r.step
        rw [hzero, add_zero]
        exact hfits.moves hzero
  · exact h.idleAt htarget hperiod

/-! ### Channels of one block -/

theorem Channel.Compatible.symm {x : Bool} {a b : Channel} (h : a.Compatible x b) :
    b.Compatible x a where
  pair := fun ⟨ht, hc⟩ => h.pair ⟨ht.symm, hc.symm⟩
  pin := h.pin.symm
  period := fun ht => (h.period ht.symm).symm
  timer := fun hx => (h.timer hx).symm

/-- Compatibility speaks of the binding alone (R28). -/
theorem Channel.Compatible.of_sameBinding {x : Bool} {a a' b : Channel} (h : a.Compatible x b)
    (hsame : a'.SameBinding a) : a'.Compatible x b := by
  obtain ⟨hpin, htimer, hchannel, -, hperiod⟩ := hsame
  exact ⟨by rw [htimer, hchannel]; exact h.pair, by rw [hpin]; exact h.pin,
    by rw [htimer, hperiod]; exact h.period, by rw [htimer]; exact h.timer⟩

theorem Channel.setDuty_sameBinding (ch : Channel) (p : Rat) :
    (ch.setDuty p).SameBinding ch := ⟨rfl, rfl, rfl, rfl, rfl⟩

theorem Channel.setWidth_sameBinding (ch : Channel) (w : Rat) :
    (ch.setWidth w).SameBinding ch := ⟨rfl, rfl, rfl, rfl, rfl⟩

theorem Channel.startRamp_sameBinding (ch : Channel) (w r : Rat) :
    (ch.startRamp w r).SameBinding ch := ⟨rfl, rfl, rfl, rfl, rfl⟩

theorem Channel.tick_sameBinding (ch : Channel) (r : Ramp) : (ch.tick r).SameBinding ch := by
  unfold Channel.tick
  split_ifs <;> exact ⟨rfl, rfl, rfl, rfl, rfl⟩

/-! ### The invariant under each operation on the state -/

/-- The invariant reads five fields of the state; of `STATUS` and `RES_INVERTED` it asks only their
ranges. -/
theorem State.Inv.of_fields {s t : State} (hs : s.Inv) (hslots : t.slots = s.slots)
    (hboard : t.board = s.board) (hpin : t.pinAf = s.pinAf) (hstatus : t.status.toNat ≤ 3)
    (hinverted : t.resInverted = 0 ∨ t.resInverted = 1) : t.Inv where
  slot_count := by rw [hslots]; exact hs.slot_count
  sound := by
    intro i ch hc
    rw [State.channelAt_congr hslots] at hc
    exact hs.sound i ch hc
  compatible := by
    intro i j a b hij ha hb
    rw [State.channelAt_congr hslots] at ha hb
    rw [hboard]
    exact hs.compatible i j a b hij ha hb
  board := by rw [hboard]; exact hs.board
  pin_af := by rw [hpin]; exact hs.pin_af
  status_code := hstatus
  inverted_bit := hinverted

theorem State.Inv.succeed {s : State} (hs : s.Inv) : s.succeed.Inv :=
  hs.of_fields rfl rfl rfl (by simp) hs.inverted_bit

/-- The block raises codes 1 to 3 only (R214). -/
theorem ErrorKind.code_le_three {e : ErrorKind} (he : e ≠ .motorIndex) : e.code.toNat ≤ 3 := by
  cases e with
  | motorIndex => exact absurd rfl he
  | unsupportedPin => decide
  | timerNotFound => decide
  | channelInUse => decide

theorem State.Inv.raise {s : State} (hs : s.Inv) {e : ErrorKind} (he : e ≠ .motorIndex) :
    (s.raise e).Inv :=
  hs.of_fields rfl rfl rfl (ErrorKind.code_le_three he) hs.inverted_bit

theorem State.Inv.returnInt {s : State} (hs : s.Inv) (c : Config) (n : Int) :
    (s.returnInt c n).Inv :=
  hs.of_fields (by simp) (by simp) (by simp) (by simpa using hs.status_code)
    (by simpa using hs.inverted_bit)

theorem State.Inv.setResolved {s : State} (hs : s.Inv) (r : Resolved) : (s.setResolved r).Inv :=
  hs.of_fields rfl rfl rfl hs.status_code (by cases h : r.inverted <;> simp [h])

theorem State.Inv.setPinAf {s : State} (hs : s.Inv) (p : Bytes) (a : Int) : (s.setPinAf p a).Inv where
  slot_count := hs.slot_count
  sound := hs.sound
  compatible := hs.compatible
  board := hs.board
  pin_af := pinAfSet_wf hs.pin_af
  status_code := hs.status_code
  inverted_bit := hs.inverted_bit

/-- Where a live channel stands after a write of a slot: it is the one written, or it was there. -/
theorem State.channelAt_setSlot_cases {s : State} {i : SlotNum} {x : Option Channel} {j : Nat}
    {ch : Channel} (h : (s.setSlot i x).channelAt j = some ch) :
    (j = i.toNat ∧ x = some ch) ∨ (j ≠ i.toNat ∧ s.channelAt j = some ch) := by
  by_cases hj : j = i.toNat
  · subst hj
    have hlt := State.lt_length_of_channelAt h
    rw [State.length_setSlot] at hlt
    rw [State.channelAt_setSlot_self x hlt] at h
    exact .inl ⟨rfl, h⟩
  · rw [State.channelAt_setSlot_ne x hj] at h
    exact .inr ⟨hj, h⟩

/-- Writing a slot keeps the invariant when what is written is in its ranges and gets on with the
channels of the other slots. -/
theorem State.Inv.setSlot {s : State} (hs : s.Inv) {i : SlotNum} {x : Option Channel}
    (hsound : ∀ ch, x = some ch → ch.Sound)
    (hcompat : ∀ ch, x = some ch → ∀ j b, j ≠ i.toNat → s.channelAt j = some b →
      ch.Compatible s.board.timerExclusive b) : (s.setSlot i x).Inv where
  slot_count := by rw [State.length_setSlot]; exact hs.slot_count
  sound := by
    intro j ch hc
    rcases State.channelAt_setSlot_cases hc with ⟨-, hx⟩ | ⟨-, hold⟩
    · exact hsound ch hx
    · exact hs.sound j ch hold
  compatible := by
    intro j k a b hjk ha hb
    rcases State.channelAt_setSlot_cases ha with ⟨hj, hxa⟩ | ⟨hj, haold⟩ <;>
      rcases State.channelAt_setSlot_cases hb with ⟨hk, hxb⟩ | ⟨hk, hbold⟩
    · exact absurd (hj.trans hk.symm) hjk
    · exact hcompat a hxa k b hk hbold
    · exact (hcompat b hxb j a hj haold).symm
    · exact hs.compatible j k a b hjk haold hbold
  board := hs.board
  pin_af := hs.pin_af
  status_code := hs.status_code
  inverted_bit := hs.inverted_bit

theorem State.Inv.clearSlot {s : State} (hs : s.Inv) (i : SlotNum) : (s.setSlot i none).Inv :=
  hs.setSlot (by simp) (by simp)

/-- A live channel may be replaced by one with its binding (R28). -/
theorem State.Inv.updateChannel {s : State} (hs : s.Inv) {i : SlotNum} {ch ch' : Channel}
    (hc : s.channelAt i.toNat = some ch) (hsound : ch'.Sound) (hsame : ch'.SameBinding ch) :
    (s.setSlot i (some ch')).Inv := by
  refine hs.setSlot ?_ ?_
  · rintro _ ⟨⟩
    exact hsound
  · rintro _ ⟨⟩ j b hj hb
    exact (hs.compatible i.toNat j ch b (Ne.symm hj) hc hb).of_sameBinding hsame

end Sys2Proof.Machine
end

section
/-! PROOFS. Resolution and construction: the errors of the resolver, the period of R122 (O26), and the
channel that `CONSTRUCT` adds. -/

namespace Sys2Proof.Machine

/-! ### The realised period (R121, R122) -/

theorem requestedFreq_pos {length freq : Rat} (hl : 0 ≤ length) (hf : 0 ≤ freq) :
    0 < requestedFreq length freq := by
  unfold requestedFreq
  split_ifs with h1 h2
  · exact div_pos (by norm_num) (lt_of_le_of_ne hl (Ne.symm h1))
  · exact lt_of_le_of_ne hf (Ne.symm h2)
  · norm_num

theorem realisedPeriod_pos (c : Config) (timer : Nat) {length freq : Rat} (hl : 0 ≤ length)
    (hf : 0 ≤ freq) : 0 < realisedPeriod c timer length freq :=
  div_pos (by norm_num) ((requestedFreq_pos hl hf).trans_le (quantQ_ge c timer _))

theorem realisedPeriod_le (c : Config) (timer : Nat) {length freq : Rat} (hl : 0 ≤ length)
    (hf : 0 ≤ freq) :
    realisedPeriod c timer length freq ≤ usPerS / requestedFreq length freq :=
  div_le_div_of_nonneg_left (by norm_num) (requestedFreq_pos hl hf) (quantQ_ge c timer _)

/-- One period of the frequency that a length asks for is that length. -/
theorem usPerS_div_requestedFreq {length : Rat} (freq : Rat) (h : length ≠ 0) :
    usPerS / requestedFreq length freq = length := by
  rw [requestedFreq, if_pos h]
  exact div_div_cancel₀ (by norm_num)

/-- Settles O26, from the one law of `QUANT` (R7). -/
theorem realisedPeriodBound : Obligations.RealisedPeriodBound := by
  intro c timer length freq hl hf
  have hbound := realisedPeriod_le c timer hl hf
  refine ⟨rfl, requestedFreq_pos hl hf, quantQ_ge c timer _, realisedPeriod_pos c timer hl hf,
    hbound, fun h => ?_⟩
  rwa [usPerS_div_requestedFreq freq h] at hbound

/-! ### The resolver -/

/-- The resolver gives one of two errors (R103, R105, R107). -/
theorem resolve_error {cap : List CapPin} {pin hint : Bytes} {e : ErrorKind}
    (h : resolve cap pin hint = .error e) : e = .unsupportedPin ∨ e = .timerNotFound := by
  unfold resolve resolveIn at h
  split at h
  · cases h; exact .inl rfl
  · dsimp only at h
    split_ifs at h
    · cases h; exact .inl rfl
    · split at h
      · cases h; exact .inr rfl
      · cases h
    · split at h
      · cases h; exact .inl rfl
      · cases h

/-- A pin that resolves has a row in `CAP`, so its length is within R5. -/
theorem pin_length_of_resolve {b : Board} (hb : b.wf = true) {pin hint : Bytes} {r : Resolved}
    (h : resolve b.cap pin hint = .ok r) : 1 ≤ pin.length ∧ pin.length ≤ strMax := by
  cases hrow : b.cap.find? (fun row => row.pin == pin) with
  | none => simp [resolve, capLookup, hrow, resolveIn] at h
  | some row =>
    have hpin : row.pin = pin := by simpa using List.find?_some hrow
    have hwf : row.wf = true := List.all_eq_true.mp hb row (List.mem_of_find?_eq_some hrow)
    simp only [CapPin.wf, Bool.and_eq_true, decide_eq_true_eq] at hwf
    obtain ⟨⟨hlo, hhi⟩, -⟩ := hwf
    exact hpin ▸ ⟨hlo, hhi⟩

/-! ### The new channel -/

theorem newChannel_sound {pin : Bytes} {r : Resolved} {period : Rat}
    (hpin : 1 ≤ pin.length ∧ pin.length ≤ strMax) (hperiod : 0 < period) :
    (newChannel pin r period).Sound where
  pin_length := hpin
  period_pos := hperiod
  cur_nonneg := le_rfl
  cur_le := hperiod.le
  ramp_fits := by simp [newChannel]

/-- The tests of R124, R125 and R128 let a channel in only beside channels it gets on with. -/
theorem newChannel_compatible {s : State} {pin : Bytes} {r : Resolved} {period : Rat}
    (hfree : s.pinBound pin = false)
    (hclaim : s.conflict r.timerIndex r.channelIndex period = false) {j : Nat} {b : Channel}
    (hb : s.channelAt j = some b) :
    (newChannel pin r period).Compatible s.board.timerExclusive b := by
  have hshared := State.conflict_eq_false_iff.mp hclaim j b hb
  refine ⟨fun ⟨ht, hc⟩ => ?_, ?_, fun ht => ?_, fun hx ht => ?_⟩
  · exact (hshared ht.symm).2.1 hc.symm
  · exact (State.pinBound_eq_false_iff.mp hfree j b hb).symm
  · exact (hshared ht.symm).2.2.symm
  · rw [(hshared ht.symm).1] at hx
    exact Bool.false_ne_true hx

/-- `CONSTRUCT` past its refusals keeps the invariant, on every implementation. -/
theorem State.Inv.construction {s : State} (hs : s.Inv) (c : Config) (i : SlotNum)
    {pin hint : Bytes} {length freq : Rat} (hl : 0 ≤ length) (hf : 0 ≤ freq)
    (hfree : s.pinBound pin = false) : (construction c i pin hint length freq s).Inv := by
  rcases construction_cases c i pin hint length freq s with ⟨e, heq, he⟩ | ⟨r, hr, hclaim, heq⟩
  · rw [heq]
    refine hs.raise ?_
    rcases he with rfl | rfl | rfl <;> decide
  · rw [heq]
    refine ((hs.setPinAf pin r.altFunction).setSlot ?_ ?_).succeed
    · rintro _ ⟨⟩
      exact newChannel_sound (pin_length_of_resolve hs.board hr)
        (realisedPeriod_pos c r.timerIndex hl hf)
    · rintro _ ⟨⟩ j b - hb
      exact newChannel_compatible hfree hclaim hb

end Sys2Proof.Machine
end

section
/-! PROOFS. What every instruction and every step keep: the invariant (O43), the capability table and
the number of slots (O48). -/

namespace Sys2Proof.Machine

/-- A step changes only what the ports carry, or runs an instruction on a state that differs from `s`
in the list of events and in `CMD`. -/
theorem step_next_ports_or_exec {s t : State} (h : step s = .next t) :
    t = { s with inbox := t.inbox, argValue := t.argValue, argRamp := t.argRamp,
                 argLength := t.argLength, argFreq := t.argFreq, argPin := t.argPin,
                 argHint := t.argHint, readData := t.readData } ∨
      ∃ rest w i, exec i { s with inbox := rest, cmd := w } = .next t := by
  rcases step_next_cases h with ⟨-, rfl⟩ | ⟨e, rest, -, haccess | ⟨p, s', i, hinstr, -, hexec⟩⟩
  · exact .inl rfl
  · exact .inl (by rw [fetchEvent_access_next haccess])
  · refine .inr ⟨rest, s'.cmd, i, ?_⟩
    rcases fetchEvent_instr hinstr with ⟨_, -, -, rfl⟩ | ⟨w, -, rfl⟩
    · exact hexec
    · exact hexec

/-! ### The invariant -/

theorem execResolve_keeps_inv {s t : State} (hs : s.Inv) (h : execResolve s = .next t) : t.Inv := by
  obtain ⟨pin, hint, -, -, -, ⟨e, he, rfl⟩ | ⟨r, -, rfl⟩⟩ := execResolve_eq_next_iff.mp h
  · refine hs.raise ?_
    rcases resolve_error he with rfl | rfl <;> decide
  · exact (hs.setResolved r).succeed

theorem execPwSet_keeps_inv {i : SlotNum} {s t : State} (hs : s.Inv)
    (h : execPwSet i s = .next t) : t.Inv := by
  obtain ⟨ch, hc, ⟨-, rfl⟩ | ⟨hpos, rfl⟩⟩ := execPwSet_eq_next_iff.mp h
  · exact (hs.updateChannel hc ((hs.sound _ ch hc).setWidth _) (ch.setWidth_sameBinding _)).succeed
  · exact (hs.updateChannel hc ((hs.sound _ ch hc).startRamp _ hpos)
      (ch.startRamp_sameBinding _ _)).succeed

theorem execTick_keeps_inv {i : SlotNum} {s t : State} (hs : s.Inv)
    (h : execTick i s = .next t) : t.Inv := by
  rcases execTick_eq_next i s with ⟨ch, r, hc, hr, heq⟩ | ⟨-, heq⟩
  · rw [heq] at h
    cases h
    exact hs.updateChannel hc ((hs.sound _ ch hc).tick hr) (ch.tick_sameBinding r)
  · rw [heq] at h
    cases h
    exact hs

/-- Every instruction keeps the invariant. -/
theorem exec_keeps_inv {i : Instr} {s t : State} (hs : s.Inv) (h : exec i s = .next t) : t.Inv := by
  cases i with
  | resolve => exact execResolve_keeps_inv hs h
  | construct slot =>
    obtain ⟨pin, hint, -, -, -, -, hl, hf, hfree, rfl⟩ := execConstruct_eq_next_iff.mp h
    exact hs.construction _ slot hl hf hfree
  | destroy slot =>
    obtain ⟨ch, -, rfl⟩ := execDestroy_eq_next_iff.mp h
    exact (hs.clearSlot slot).succeed
  | dutySet slot =>
    obtain ⟨ch, hc, rfl⟩ := execDutySet_eq_next_iff.mp h
    exact (hs.updateChannel hc ((hs.sound _ ch hc).setDuty _) (ch.setDuty_sameBinding _)).succeed
  | dutyGet slot =>
    obtain ⟨ch, -, rfl⟩ := execDutyGet_eq_next_iff.mp h
    exact (hs.returnInt _ _).succeed
  | pwSet slot => exact execPwSet_keeps_inv hs h
  | pwGet slot =>
    obtain ⟨ch, -, rfl⟩ := execPwGet_eq_next_iff.mp h
    exact (hs.returnInt _ _).succeed
  | tick slot => exact execTick_keeps_inv hs h

/-- Settles O43: bus accesses touch no field of the invariant, and instructions keep it. -/
theorem stepKeepsInvariant : Obligations.StepKeepsInvariant := by
  intro s t hs h
  rcases step_next_ports_or_exec h with hports | ⟨rest, w, i, hexec⟩
  · rw [hports]
    exact hs.of_fields rfl rfl rfl hs.status_code hs.inverted_bit
  · have hready : State.Inv { s with inbox := rest, cmd := w } :=
      hs.of_fields rfl rfl rfl hs.status_code hs.inverted_bit
    exact exec_keeps_inv hready hexec

/-! ### The capability table and the number of slots -/

theorem construction_board_length (c : Config) (i : SlotNum) (pin hint : Bytes)
    (length freq : Rat) (s : State) :
    (construction c i pin hint length freq s).board = s.board ∧
      (construction c i pin hint length freq s).slots.length = s.slots.length := by
  rcases construction_cases c i pin hint length freq s with ⟨e, heq, -⟩ | ⟨r, -, -, heq⟩ <;>
    simp [heq]

/-- No instruction writes the capability table or changes the number of slots (R6, R51). -/
theorem exec_board_length {i : Instr} {s t : State} (h : exec i s = .next t) :
    t.board = s.board ∧ t.slots.length = s.slots.length := by
  cases i with
  | resolve =>
    obtain ⟨pin, hint, -, -, -, ⟨e, -, rfl⟩ | ⟨r, -, rfl⟩⟩ := execResolve_eq_next_iff.mp h
    · exact ⟨rfl, rfl⟩
    · exact ⟨rfl, rfl⟩
  | construct slot =>
    obtain ⟨pin, hint, -, -, -, -, -, -, -, rfl⟩ := execConstruct_eq_next_iff.mp h
    exact construction_board_length _ _ _ _ _ _ s
  | destroy slot =>
    obtain ⟨ch, -, rfl⟩ := execDestroy_eq_next_iff.mp h
    simp
  | dutySet slot =>
    obtain ⟨ch, -, rfl⟩ := execDutySet_eq_next_iff.mp h
    simp
  | dutyGet slot =>
    obtain ⟨ch, -, rfl⟩ := execDutyGet_eq_next_iff.mp h
    simp
  | pwSet slot =>
    obtain ⟨ch, -, ⟨-, rfl⟩ | ⟨-, rfl⟩⟩ := execPwSet_eq_next_iff.mp h
    · simp
    · simp
  | pwGet slot =>
    obtain ⟨ch, -, rfl⟩ := execPwGet_eq_next_iff.mp h
    simp
  | tick slot =>
    rcases execTick_eq_next slot s with ⟨ch, r, -, -, heq⟩ | ⟨-, heq⟩
    · obtain rfl := Host.Outcome.next.inj (heq.symm.trans h)
      simp
    · obtain rfl := Host.Outcome.next.inj (heq.symm.trans h)
      simp

/-- Settles O48: neither a bus access nor an instruction touches `CAP`, `TIMER_EXCLUSIVE` or the
number of slots. -/
theorem capabilityTableNeverChanges : Obligations.CapabilityTableNeverChanges := by
  intro s t h
  rcases step_next_ports_or_exec h with hports | ⟨rest, w, i, hexec⟩
  · rw [hports]
    exact ⟨rfl, rfl⟩
  · obtain ⟨hboard, hlength⟩ := exec_board_length hexec
    exact ⟨hboard, hlength⟩

end Sys2Proof.Machine
end

section
/-! PROOFS. The state after reset (O13, O44). -/

namespace Sys2Proof.Machine

theorem reset_channelAt (i : Nat) : State.reset.channelAt i = none := by
  have hslots : State.reset.slots = List.replicate (Config.platform.extraSlots.val + 1) none := rfl
  rw [State.channelAt, hslots, List.getElem?_replicate]
  split <;> rfl

theorem reset_slot_count : 1 ≤ State.reset.slots.length ∧ State.reset.slots.length ≤ 16 := by
  have hlength : State.reset.slots.length = Config.platform.extraSlots.val + 1 :=
    List.length_replicate
  have hlt := Config.platform.extraSlots.isLt
  omega

theorem Board.inRange_wf (b : Board) : b.inRange.wf = true :=
  List.all_eq_true.mpr fun _ hrow => (List.mem_filter.mp hrow).2

/-- Settles O13: every slot of the reset state is `Empty`, and so nothing is claimed or ramping. -/
theorem resetLeavesTheBlockEmpty : Obligations.ResetLeavesTheBlockEmpty := by
  refine ⟨reset_slot_count, fun x hx => List.eq_of_mem_replicate hx, fun t c => ?_, fun i => ?_,
    fun pin => rfl, rfl, rfl, rfl, rfl, rfl, rfl, rfl, ?_⟩
  · rw [State.claimed_eq_false_iff]
    simp [reset_channelAt]
  · simp [State.ramping, reset_channelAt]
  · simp [State.readReg, State.reset, State.resetOn]

/-- Settles O44: with every slot `Empty` only the register, `CAP` and `pin_af` clauses say
anything. -/
theorem resetHasInvariant : Obligations.ResetHasInvariant where
  slot_count := reset_slot_count
  sound := by simp [reset_channelAt]
  compatible := by simp [reset_channelAt]
  board := Board.inRange_wf _
  pin_af := List.Pairwise.nil
  status_code := Nat.zero_le _
  inverted_bit := .inl rfl

end Sys2Proof.Machine
end

section
/-! PROOFS. Channel names: how long the numbers of a name can be, and so how large (O18). -/

namespace Sys2Proof.Machine

/-- A string is a literal and what follows it. -/
theorem afterLiteral_length : ∀ {lit s r : Bytes}, afterLiteral lit s = some r →
    s.length = lit.length + r.length
  | [], s, r, h => by
    obtain rfl : s = r := Option.some.inj h
    simp
  | _ :: _, [], _, h => by cases h
  | a :: as, b :: bs, r, h => by
    simp only [afterLiteral] at h
    split_ifs at h
    have htail := afterLiteral_length h
    simp only [List.length_cons]
    omega

theorem spanDigits_length : ∀ s : Bytes,
    (spanDigits s).1.length + (spanDigits s).2.length = s.length
  | [] => rfl
  | b :: bs => by
    have htail := spanDigits_length bs
    simp only [spanDigits]
    split_ifs
    · simp only [List.length_cons]
      omega
    · simp

theorem isDigit_of_mem_spanDigits : ∀ {s : Bytes} {d : Byte}, d ∈ (spanDigits s).1 →
    isDigit d = true
  | [], d, h => by simp [spanDigits] at h
  | b :: bs, d, h => by
    simp only [spanDigits] at h
    split_ifs at h with hb
    · rcases List.mem_cons.mp h with rfl | htail
      · exact hb
      · exact isDigit_of_mem_spanDigits htail
    · simp at h

theorem digitValue_lt {d : Byte} (h : isDigit d = true) : digitValue d < 10 := by
  simp only [isDigit, Bool.and_eq_true, decide_eq_true_eq] at h
  unfold digitValue
  omega

/-- A digit string of length `k` is a number below `10 ^ k`. -/
theorem decimal_lt (ds : Bytes) (h : ∀ d ∈ ds, isDigit d = true) : decimal ds < 10 ^ ds.length := by
  induction ds using List.reverseRecOn with
  | nil => decide
  | append_singleton ds d ih =>
    have hlast := digitValue_lt (h d (by simp))
    have hinit := ih fun x hx => h x (by simp [hx])
    have hstep : decimal (ds ++ [d]) = 10 * decimal ds + digitValue d := by simp [decimal]
    rw [hstep, List.length_append, List.length_singleton, pow_succ]
    omega

theorem classifyEnd_numbers {n c n' c' : Nat} {s : Bytes}
    (h : classifyEnd n c s = .oc n' c' ∨ classifyEnd n c s = .ocn n' c') : n' = n ∧ c' = c := by
  unfold classifyEnd at h
  split at h
  · simpa [eq_comm] using h
  · split_ifs at h
    · simpa [eq_comm] using h
    · simp at h
  · simp at h

/-- The two numbers of a channel name are digit strings of it, beside the six bytes of `TIM` and
`_CH` (R83). -/
theorem classify_numbers {name : Bytes} {n c : Nat}
    (h : classify name = .oc n c ∨ classify name = .ocn n c) :
    ∃ r1 r2 : Bytes, n = decimal (spanDigits r1).1 ∧ c = decimal (spanDigits r2).1 ∧
      (spanDigits r1).1.length + (spanDigits r2).1.length + 6 ≤ name.length := by
  unfold classify at h
  split at h
  · simp at h
  · rename_i r1 hr1
    split_ifs at h
    · simp at h
    · split at h
      · simp at h
      · rename_i r2 hr2
        split_ifs at h
        · simp at h
        · obtain ⟨rfl, rfl⟩ := classifyEnd_numbers h
          refine ⟨r1, r2, rfl, rfl, ?_⟩
          have htim : name.length = 3 + r1.length := afterLiteral_length hr1
          have hch : (spanDigits r1).2.length = 3 + r2.length := afterLiteral_length hr2
          have hspan1 := spanDigits_length r1
          have hspan2 := spanDigits_length r2
          omega

/-- A run of at most 9 digits is a number below 2^32. -/
theorem decimal_spanDigits_lt {s : Bytes} (h : (spanDigits s).1.length ≤ 9) :
    decimal (spanDigits s).1 < 2 ^ 32 :=
  calc decimal (spanDigits s).1
      < 10 ^ (spanDigits s).1.length := decimal_lt _ fun _ => isDigit_of_mem_spanDigits
    _ ≤ 10 ^ 9 := Nat.pow_le_pow_right (by norm_num) h
    _ < 2 ^ 32 := by norm_num

/-- Settles O18: of the 15 bytes of a name 6 are literals, so that 9 are left for digits (R5). -/
theorem channelNumbersFitTheirRegisters : Obligations.ChannelNumbersFitTheirRegisters := by
  intro e n c hwf hname
  have hlength : e.name.length ≤ 15 := by
    simp only [CapEntry.wf, Bool.and_eq_true, decide_eq_true_eq] at hwf
    exact hwf.2
  obtain ⟨r1, r2, rfl, rfl, hdigits⟩ := classify_numbers hname
  exact ⟨decimal_spanDigits_lt (by omega), decimal_spanDigits_lt (by omega)⟩

end Sys2Proof.Machine
end

section
/-! PROOFS. Bus reads of whole registers (O9, O12). -/

namespace Sys2Proof.Machine

theorem Reg.startingAt_eq_some_iff {offset : BitVec 8} {r : Reg} :
    Reg.startingAt offset = some r ↔ r.offset = offset := by
  constructor
  · intro h
    simpa using List.find?_some h
  · rintro rfl
    cases r <;> rfl

theorem step_read {s : State} {rest : List PortEvent} {offset : BitVec 8} {width : Nat}
    (h : s.inbox = .read offset width :: rest) :
    step s = busRead offset width { s with inbox := rest } := by
  simp only [step, h, fetchEvent]

/-- A whole-register read of a register with a value delivers it (R52, R55). -/
theorem busRead_of_ok {s : State} {r : Reg} {v : BitVec 128} (h : s.readReg r = .ok v) :
    busRead r.offset r.width s = .next { s with readData := v } := by
  simp only [busRead, Reg.startingAt_eq_some_iff.mpr rfl, if_true, h]

/-- A whole-register read of a register without a value is a fault (R38, R52). -/
theorem busRead_of_error {s : State} {r : Reg} {f : Fault} (h : s.readReg r = .error f) :
    busRead r.offset r.width s = .fault f := by
  simp only [busRead, Reg.startingAt_eq_some_iff.mpr rfl, if_true, h]

/-- What a register reads as does not depend on the events still to come. -/
theorem State.readReg_inbox (s : State) (rest : List PortEvent) (r : Reg) :
    State.readReg { s with inbox := rest } r = s.readReg r := by
  cases r <;> rfl

theorem step_read_of_ok {s : State} {rest : List PortEvent} {r : Reg} {v : BitVec 128}
    (h : s.inbox = .read r.offset r.width :: rest) (hv : s.readReg r = .ok v) :
    step s = .next { s with inbox := rest, readData := v } := by
  rw [step_read h, busRead_of_ok ((s.readReg_inbox rest r).trans hv)]

theorem step_read_of_error {s : State} {rest : List PortEvent} {r : Reg} {f : Fault}
    (h : s.inbox = .read r.offset r.width :: rest) (hf : s.readReg r = .error f) :
    step s = .fault f := by
  rw [step_read h, busRead_of_error ((s.readReg_inbox rest r).trans hf)]

/-- Settles O9: each clause names the offset and the width of one register, and what it reads as. -/
theorem readDeliversRegister : Obligations.ReadDeliversRegister := by
  intro s rest offset width v hinbox hclauses
  have hread (r : Reg) (x : BitVec 128) (hx : s.readReg r = .ok x)
      (hclause : (offset, width, v) = (r.offset, r.width, x)) :
      step s = .next { s with inbox := rest, readData := v } := by
    cases hclause
    exact step_read_of_ok hinbox hx
  rcases hclauses with h | h | h | h | h | h | h | ⟨hdef, h⟩ | ⟨hdef, h | h | h | h⟩
  · exact hread .status _ rfl h
  · exact hread .argValue _ rfl h
  · exact hread .argRamp _ rfl h
  · exact hread .argLength _ rfl h
  · exact hread .argFreq _ rfl h
  · exact hread .argPin _ rfl h
  · exact hread .argHint _ rfl h
  · exact hread .result _ (if_pos hdef) h
  · exact hread .resAf _ (if_pos hdef) h
  · exact hread .resTimer _ (if_pos hdef) h
  · exact hread .resChannel _ (if_pos hdef) h
  · exact hread .resInverted _ (if_pos hdef) h

/-- Settles O12: the register has no value to deliver while its flag is clear. -/
theorem unwrittenResultReadFaults : Obligations.UnwrittenResultReadFaults := by
  intro s rest
  refine ⟨fun hundef h => ?_, fun hundef h => ?_⟩
  · have hclear : ¬ s.resultDefined = true := by simp [hundef]
    exact step_read_of_error (r := .result) h (if_neg hclear)
  · have hclear : ¬ s.resDefined = true := by simp [hundef]
    rcases h with h | h | h | h
    · exact step_read_of_error (r := .resAf) h (if_neg hclear)
    · exact step_read_of_error (r := .resTimer) h (if_neg hclear)
    · exact step_read_of_error (r := .resChannel) h (if_neg hclear)
    · exact step_read_of_error (r := .resInverted) h (if_neg hclear)

end Sys2Proof.Machine
end

section
/-! PROOFS. The pin multiplexer record of R30: reading after writing (O52). -/

namespace Sys2Proof.Machine

/-- What a pin reads in a record whose first entry is another pin's. -/
theorem pinAfGet_cons_ne {k q : Bytes} (b : Int) (rest : List (Bytes × Int)) (h : k ≠ q) :
    pinAfGet ((k, b) :: rest) q = pinAfGet rest q := if_neg h

/-- A pin reads back the alternate function written for it (R30). -/
theorem pinAfGet_pinAfSet_same (p : Bytes) (a : Int) (m : List (Bytes × Int)) :
    pinAfGet (pinAfSet p a m) p = some a := by
  induction m with
  | nil => simp [pinAfSet, pinAfGet]
  | cons entry rest ih =>
    obtain ⟨k, b⟩ := entry
    rw [pinAfSet]
    split_ifs with hpk
    · exact if_pos rfl
    · exact if_pos rfl
    · rw [pinAfGet_cons_ne b _ (Ne.symm hpk), ih]

/-- A write of one pin leaves every other pin alone (R30). -/
theorem pinAfGet_pinAfSet_ne {p q : Bytes} (a : Int) (m : List (Bytes × Int)) (h : p ≠ q) :
    pinAfGet (pinAfSet p a m) q = pinAfGet m q := by
  induction m with
  | nil => exact pinAfGet_cons_ne a [] h
  | cons entry rest ih =>
    obtain ⟨k, b⟩ := entry
    rw [pinAfSet]
    split_ifs with hpk
    · subst hpk
      rw [pinAfGet_cons_ne a _ h, pinAfGet_cons_ne b _ h]
    · exact pinAfGet_cons_ne a _ h
    · rw [pinAfGet, pinAfGet, ih]

/-- Settles O52, by the two rules of the record. -/
theorem pinFunctionReadsBack : Obligations.PinFunctionReadsBack := by
  intro m p q a
  split_ifs with h
  · rw [h, pinAfGet_pinAfSet_same]
  · exact pinAfGet_pinAfSet_ne a m (Ne.symm h)

end Sys2Proof.Machine
end

section
/-! PROOFS. The abstract commands of R70: what each can do when it answers a next state, and that
each keeps the invariant on every implementation (O45). -/

namespace Sys2Proof.Machine

theorem resolveCmd_eq_next_iff {pin hint : Bytes} {s t : State} :
    resolveCmd pin hint s = .next t ↔ pin ≠ [] ∧
      ((∃ e, resolve s.board.cap pin hint = .error e ∧ t = s.raise e) ∨
        ∃ r, resolve s.board.cap pin hint = .ok r ∧ t = (s.setResolved r).succeed) := by
  unfold resolveCmd
  by_cases hpin : pin = []
  · simp [hpin]
  · cases resolve s.board.cap pin hint <;> simp [hpin, eq_comm]

/-- `CONSTRUCT` completes exactly past the refusals of R128. -/
theorem constructCmd_eq_next_iff {c : Config} {i : SlotNum} {pin hint : Bytes} {length freq : Rat}
    {s t : State} :
    constructCmd c i pin hint length freq s = .next t ↔
      s.view i = .empty ∧ pin ≠ [] ∧ 0 ≤ length ∧ 0 ≤ freq ∧ s.pinBound pin = false ∧
        t = construction c i pin hint length freq s := by
  unfold constructCmd
  cases s.view i with
  | absent => simp
  | live ch => simp
  | empty =>
    dsimp only
    split_ifs with hpin hlength hfreq hbound
    · simp [hpin]
    · simp [not_le.mpr hlength]
    · simp [not_le.mpr hfreq]
    · simp [hbound]
    · simp [hpin, not_lt.mp hlength, not_lt.mp hfreq, hbound, eq_comm]

theorem pwSetCmd_eq_next_iff {i : SlotNum} {w r : Rat} {s t : State} :
    pwSetCmd i w r s = .next t ↔
      ∃ ch, s.channelAt i.toNat = some ch ∧
        ((r = 0 ∧ t = (s.setSlot i (some (ch.setWidth w))).succeed) ∨
          (0 < r ∧ t = (s.setSlot i (some (ch.startRamp w r))).succeed)) := by
  rw [pwSetCmd, onLive_eq_next_iff]
  refine exists_congr fun ch => and_congr_right fun _ => ?_
  split_ifs with hneg hzero
  · simp [hneg.ne, hneg.not_gt]
  · simp [hzero, eq_comm]
  · simp [hzero, lt_of_le_of_ne (not_lt.mp hneg) (Ne.symm hzero), eq_comm]

theorem resolveCmd_keeps_inv {pin hint : Bytes} {s t : State} (hs : s.Inv)
    (h : resolveCmd pin hint s = .next t) : t.Inv := by
  obtain ⟨-, ⟨e, he, rfl⟩ | ⟨r, -, rfl⟩⟩ := resolveCmd_eq_next_iff.mp h
  · refine hs.raise ?_
    rcases resolve_error he with rfl | rfl <;> decide
  · exact (hs.setResolved r).succeed

theorem pwSetCmd_keeps_inv {i : SlotNum} {w r : Rat} {s t : State} (hs : s.Inv)
    (h : pwSetCmd i w r s = .next t) : t.Inv := by
  obtain ⟨ch, hc, ⟨-, rfl⟩ | ⟨hpos, rfl⟩⟩ := pwSetCmd_eq_next_iff.mp h
  · exact (hs.updateChannel hc ((hs.sound _ ch hc).setWidth w) (ch.setWidth_sameBinding w)).succeed
  · exact (hs.updateChannel hc ((hs.sound _ ch hc).startRamp w hpos)
      (ch.startRamp_sameBinding w r)).succeed

/-- Settles O45: no command needs more of its operands than its own refusals ask. -/
theorem abstractCommandKeepsInvariant : Obligations.AbstractCommandKeepsInvariant := by
  intro c cmd s t hs h
  cases cmd with
  | resolve pin hint => exact resolveCmd_keeps_inv hs h
  | construct slot pin hint length freq =>
    obtain ⟨-, -, hlength, hfreq, hfree, rfl⟩ := constructCmd_eq_next_iff.mp h
    exact hs.construction c slot hlength hfreq hfree
  | destroy slot =>
    obtain ⟨_, -, ⟨⟩⟩ := onLive_eq_next_iff.mp h
    exact (hs.clearSlot slot).succeed
  | dutySet slot p =>
    obtain ⟨ch, hc, ⟨⟩⟩ := onLive_eq_next_iff.mp h
    exact (hs.updateChannel hc ((hs.sound _ ch hc).setDuty p) (ch.setDuty_sameBinding p)).succeed
  | dutyGet slot =>
    obtain ⟨ch, -, ⟨⟩⟩ := onLive_eq_next_iff.mp h
    exact (hs.returnInt c _).succeed
  | pwSet slot w r => exact pwSetCmd_keeps_inv hs h
  | pwGet slot =>
    obtain ⟨ch, -, ⟨⟩⟩ := onLive_eq_next_iff.mp h
    exact (hs.returnInt c _).succeed

end Sys2Proof.Machine
end

section
/-! PROOFS. A live channel's binding and period never change, and only `DESTROY` of its slot takes
it away (R28, O47). -/

namespace Sys2Proof.Machine

/-! ### Words and the events that bring them -/

/-- A word with `ZERO` clear is the one made of its opcode and its slot (R70, R73). -/
theorem commandWord_op_slot {w : CmdWord} (h : CmdWord.zero w = 0) :
    commandWord (CmdWord.op w) (CmdWord.slot w) = w := by
  have hzero : 0#24 = CmdWord.zero w := h.symm
  rw [commandWord, hzero, CmdWord.op, CmdWord.slot, CmdWord.zero,
    BitVec.extractLsb'_append_extractLsb'_eq_extractLsb' (by decide : 28 = 24 + 4),
    BitVec.extractLsb'_append_extractLsb'_eq_extractLsb' (by decide : 24 = 0 + 24)]
  exact BitVec.extractLsb'_eq_self

/-- Only the word 0x3s000000 stands for `DESTROY` of slot s (R71). -/
theorem eq_commandWord_of_decode_destroy {p : PortWord} {slot : SlotNum}
    (h : decode p = .ok (.destroy slot)) : p = .command (commandWord 0x3 slot) := by
  cases p with
  | strobe i => cases h
  | command w =>
    simp only [decode, decodeCommand] at h
    split at h
    · cases h
    · rename_i hzero
      split at h
      case h_1 => split at h <;> cases h
      case h_3 hop =>
        cases h
        have hdestroy : CmdWord.op w = 0x3 := BitVec.eq_of_toNat_eq hop
        rw [← hdestroy, commandWord_op_slot (not_not.mp hzero)]
      all_goals cases h
/-- A command word is brought by a whole-register write of `CMD` (R52, R70). -/
theorem fetchEvent_command {e : PortEvent} {s s' : State} {w : CmdWord}
    (h : fetchEvent e s = .instr (.command w) s') : e = .write 0x00 32 w := by
  cases e with
  | strobe i => cases h
  | read offset width => cases h
  | write offset width data =>
    simp only [fetchEvent, busWrite] at h
    split at h
    · rename_i r hr
      split_ifs at h with hwidth
      cases r <;> cases h
      obtain rfl : 0x00 = offset := Reg.startingAt_eq_some_iff.mp hr
      obtain rfl : width = 32 := hwidth
      simp
    · split_ifs at h

/-- The decoder of a block reads no word otherwise than the decoder of all 16 slots. -/
theorem decode_of_decodeFor {nslots : Nat} {p : PortWord} {i : Instr}
    (h : decodeFor nslots p = .ok i) : decode p = .ok i := by
  unfold decodeFor at h
  split at h
  · cases h
  · split_ifs at h
    cases h
    assumption

/-! ### Bindings -/

/-- Every channel live in `s` is live in `t`, in its slot and with its binding and period (R28). -/
def State.KeepsBindings (s t : State) : Prop :=
  ∀ j ch, s.channelAt j = some ch → ∃ ch', t.channelAt j = some ch' ∧ ch'.SameBinding ch

theorem State.KeepsBindings.of_slots {s t : State} (h : t.slots = s.slots) : s.KeepsBindings t :=
  fun j ch hc => ⟨ch, (State.channelAt_congr h j).trans hc, rfl, rfl, rfl, rfl, rfl⟩

/-- A slot may be written with a channel that has the binding of the one it replaces, if any. -/
theorem State.KeepsBindings.setSlot {s : State} {i : SlotNum} {ch' : Channel}
    (hsame : ∀ ch, s.channelAt i.toNat = some ch → ch'.SameBinding ch) :
    s.KeepsBindings (s.setSlot i (some ch')) := by
  intro j ch hc
  by_cases hj : j = i.toNat
  · subst hj
    exact ⟨ch', State.channelAt_setSlot_self _ (State.lt_length_of_channelAt hc), hsame ch hc⟩
  · exact ⟨ch, (State.channelAt_setSlot_ne _ hj).trans hc, rfl, rfl, rfl, rfl, rfl⟩

theorem State.KeepsBindings.updateChannel {s : State} {i : SlotNum} {ch ch' : Channel}
    (hc : s.channelAt i.toNat = some ch) (hsame : ch'.SameBinding ch) :
    s.KeepsBindings (s.setSlot i (some ch')) := by
  refine .setSlot fun old hold => ?_
  rwa [Option.some.inj (hold.symm.trans hc)]

/-- `CONSTRUCT` writes an `Empty` slot only. -/
theorem construction_keepsBindings (c : Config) {i : SlotNum} (pin hint : Bytes)
    (length freq : Rat) {s : State} (hempty : s.view i = .empty) :
    s.KeepsBindings (construction c i pin hint length freq s) := by
  rcases construction_cases c i pin hint length freq s with ⟨e, heq, -⟩ | ⟨r, -, -, heq⟩
  · rw [heq]
    exact .of_slots rfl
  · rw [heq]
    have hnone := State.channelAt_eq_of_view hempty
    exact State.KeepsBindings.setSlot (s := s) (by simp [hnone])

/-- Every instruction but `DESTROY` keeps every channel's binding. -/
theorem exec_keepsBindings {i : Instr} {s t : State} (h : exec i s = .next t)
    (hi : ∀ slot, i ≠ .destroy slot) : s.KeepsBindings t := by
  cases i with
  | resolve =>
    obtain ⟨pin, hint, -, -, -, ⟨e, -, rfl⟩ | ⟨r, -, rfl⟩⟩ := execResolve_eq_next_iff.mp h
    · exact .of_slots rfl
    · exact .of_slots rfl
  | construct slot =>
    obtain ⟨pin, hint, -, -, hempty, -, -, -, -, rfl⟩ := execConstruct_eq_next_iff.mp h
    exact construction_keepsBindings _ pin hint _ _ hempty
  | destroy slot => exact absurd rfl (hi slot)
  | dutySet slot =>
    obtain ⟨ch, hc, rfl⟩ := execDutySet_eq_next_iff.mp h
    exact .updateChannel hc (ch.setDuty_sameBinding _)
  | dutyGet slot =>
    obtain ⟨ch, -, rfl⟩ := execDutyGet_eq_next_iff.mp h
    exact .of_slots (by simp)
  | pwSet slot =>
    obtain ⟨ch, hc, ⟨-, rfl⟩ | ⟨-, rfl⟩⟩ := execPwSet_eq_next_iff.mp h
    · exact .updateChannel hc (ch.setWidth_sameBinding _)
    · exact .updateChannel hc (ch.startRamp_sameBinding _ _)
  | pwGet slot =>
    obtain ⟨ch, -, rfl⟩ := execPwGet_eq_next_iff.mp h
    exact .of_slots (by simp)
  | tick slot =>
    rcases execTick_eq_next slot s with ⟨ch, r, hc, -, heq⟩ | ⟨-, heq⟩
    · obtain rfl := Host.Outcome.next.inj (heq.symm.trans h)
      exact .updateChannel hc (ch.tick_sameBinding r)
    · obtain rfl := Host.Outcome.next.inj (heq.symm.trans h)
      exact .of_slots rfl

/-- `DESTROY` empties its slot and leaves every other one alone (R129). -/
theorem execDestroy_channelAt {slot : SlotNum} {s t : State} (h : execDestroy slot s = .next t) :
    t.channelAt slot.toNat = none ∧ ∀ j, j ≠ slot.toNat → t.channelAt j = s.channelAt j := by
  obtain ⟨ch, hc, rfl⟩ := execDestroy_eq_next_iff.mp h
  exact ⟨State.channelAt_setSlot_self none (State.lt_length_of_channelAt hc),
    fun j hj => State.channelAt_setSlot_ne none hj⟩

/-- An instruction keeps a live channel's binding, or is the `DESTROY` that empties its slot. -/
theorem exec_channelAt_of_live {i : Instr} {s t : State} {j : Nat} {ch : Channel}
    (h : exec i s = .next t) (hc : s.channelAt j = some ch) :
    (∃ ch', t.channelAt j = some ch' ∧ ch'.SameBinding ch) ∨
      (t.channelAt j = none ∧ ∃ slot : SlotNum, slot.toNat = j ∧ i = .destroy slot) := by
  by_cases hi : ∃ slot, i = .destroy slot
  · obtain ⟨slot, rfl⟩ := hi
    obtain ⟨hself, hother⟩ := execDestroy_channelAt h
    by_cases hj : j = slot.toNat
    · exact .inr ⟨hj ▸ hself, slot, hj.symm, rfl⟩
    · exact .inl ⟨ch, (hother j hj).trans hc, rfl, rfl, rfl, rfl, rfl⟩
  · exact .inl (exec_keepsBindings h (not_exists.mp hi) j ch hc)

/-- Settles O47: a bus access touches no slot, and an instruction that takes a channel away came as
the word of its `DESTROY`. -/
theorem bindingNeverChanges : Obligations.BindingNeverChanges := by
  intro s t i ch h hc
  rcases step_next_cases h with
    ⟨-, rfl⟩ | ⟨e, rest, hinbox, haccess | ⟨p, s', i, hfetch, hdec, hexec⟩⟩
  · exact .inl (State.KeepsBindings.of_slots rfl _ ch hc)
  · rw [fetchEvent_access_next haccess]
    exact .inl (State.KeepsBindings.of_slots (s := s) rfl _ ch hc)
  · have hslots : s'.slots = s.slots := by
      rcases fetchEvent_instr hfetch with ⟨_, -, -, rfl⟩ | ⟨w, -, rfl⟩
      · rfl
      · rfl
    rcases exec_channelAt_of_live hexec ((State.channelAt_congr hslots _).trans hc) with
      hkept | ⟨hgone, slot, hslot, rfl⟩
    · exact .inl hkept
    · obtain rfl := eq_commandWord_of_decode_destroy (decode_of_decodeFor hdec)
      rw [fetchEvent_command hfetch] at hinbox
      exact .inr ⟨hgone, slot, rest, hslot, hinbox⟩

end Sys2Proof.Machine
end

section
/-! PROOFS. One step around a port event: what a bus access comes to (O7, O8, O10, O11), how an
event reaches the decoder (O5), and the block to which nothing comes (O6). -/

namespace Sys2Proof.Machine

/-! ### What a step makes of a fetched event -/

theorem step_of_empty {s : State} (h : s.inbox = []) : step s = .next s := by
  simp only [step, h]

theorem step_of_access {s : State} {e : PortEvent} {rest : List PortEvent} {x : Result}
    (h : s.inbox = e :: rest) (hf : fetchEvent e { s with inbox := rest } = .access x) :
    step s = x := by
  simp only [step, h, hf]

theorem step_of_instr {s s' : State} {e : PortEvent} {rest : List PortEvent} {p : PortWord}
    {i : Instr} (h : s.inbox = e :: rest)
    (hf : fetchEvent e { s with inbox := rest } = .instr p s')
    (hdec : decodeFor s'.slots.length p = .ok i) : step s = exec i s' := by
  simp only [step, h, hf, hdec]

/-! ### The register map -/

/-- Every register lies below the reserved offsets (R52). -/
theorem Reg.offset_lt_reserved (r : Reg) : r.offset.toNat < 0x60 := by
  cases r <;> decide

theorem Reg.startingAt_eq_none_of_reserved {offset : BitVec 8} (h : 0x60 ≤ offset.toNat) :
    Reg.startingAt offset = none := by
  rw [Option.eq_none_iff_forall_ne_some]
  intro r hr
  obtain rfl := Reg.startingAt_eq_some_iff.mp hr
  exact absurd r.offset_lt_reserved (not_lt.mpr h)

/-- Natural alignment, of the 16-byte registers to 8 bytes (R54). -/
theorem Reg.offset_aligned (r : Reg) : r.offset.toNat % min (r.width / 8) 8 = 0 := by
  cases r <;> decide

/-! ### Bus accesses -/

/-- A whole-register write is the write of that register (R52). -/
theorem busWrite_reg (r : Reg) (v : BitVec 128) (s : State) :
    busWrite r.offset r.width v s = s.writeReg r v := by
  simp only [busWrite, Reg.startingAt_eq_some_iff.mpr rfl, if_true]

/-- A write of a reserved offset is ignored, whatever its width (93 U12; log 11). -/
theorem busWrite_reserved {offset : BitVec 8} (h : 0x60 ≤ offset.toNat) (width : Nat)
    (v : BitVec 128) (s : State) : busWrite offset width v s = .access (.next s) := by
  simp [busWrite, Reg.startingAt_eq_none_of_reserved h, reservedOffset, h]

/-- A read of a reserved offset has no defined value, whatever its width (93 U12; log 11). -/
theorem busRead_reserved {offset : BitVec 8} (h : 0x60 ≤ offset.toNat) (width : Nat) (s : State) :
    busRead offset width s = .fault .readReserved := by
  simp [busRead, Reg.startingAt_eq_none_of_reserved h, reservedOffset, h]

/-- A write below the reserved offsets that meets no whole register is refused (R54). -/
theorem busWrite_partial {offset : BitVec 8} {width : Nat} (hlow : offset.toNat < 0x60)
    (hwidth : ∀ r : Reg, r.offset = offset → r.width ≠ width) (v : BitVec 128) (s : State) :
    busWrite offset width v s = .access (.refused .partialAccess) := by
  unfold busWrite
  split
  · rename_i r hr
    exact if_neg (hwidth r (Reg.startingAt_eq_some_iff.mp hr)).symm
  · exact if_neg (by simpa [reservedOffset] using hlow)

/-- A read below the reserved offsets that meets no whole register is refused (R54). -/
theorem busRead_partial {offset : BitVec 8} {width : Nat} (hlow : offset.toNat < 0x60)
    (hwidth : ∀ r : Reg, r.offset = offset → r.width ≠ width) (s : State) :
    busRead offset width s = .refused .partialAccess := by
  unfold busRead
  split
  · rename_i r hr
    exact if_neg (hwidth r (Reg.startingAt_eq_some_iff.mp hr)).symm
  · exact if_neg (by simpa [reservedOffset] using hlow)

/-- A read completes exactly when it is of a whole register that has a value, which is all it
changes (R55). -/
theorem busRead_eq_next_iff {offset : BitVec 8} {width : Nat} {s t : State} :
    busRead offset width s = .next t ↔
      ∃ r v, r.offset = offset ∧ r.width = width ∧ s.readReg r = .ok v ∧
        t = { s with readData := v } := by
  constructor
  · intro h
    unfold busRead at h
    split at h
    · rename_i r hr
      split_ifs at h with hwidth
      split at h
      · rename_i v hv
        cases h
        exact ⟨r, v, Reg.startingAt_eq_some_iff.mp hr, hwidth.symm, hv, rfl⟩
      · cases h
    · split_ifs at h
  · rintro ⟨r, v, rfl, rfl, hv, rfl⟩
    exact busRead_of_ok hv

/-- A whole-register write that is no command completes as the write of its register. -/
theorem step_write_reg {s : State} {rest : List PortEvent} {r : Reg} {offset : BitVec 8}
    {width : Nat} {v : BitVec width} {x : Result} (h : s.inbox = .write offset width v :: rest)
    (hoffset : r.offset = offset) (hwidth : r.width = width)
    (hw : State.writeReg { s with inbox := rest } r (v.setWidth 128) = .access x) :
    step s = x := by
  subst hoffset hwidth
  exact step_of_access h ((busWrite_reg r _ _).trans hw)

/-- A whole-register write of `CMD` brings its word to the decoder, and `CMD` keeps it (R70). -/
theorem fetchEvent_write_cmd (w : CmdWord) (s : State) :
    fetchEvent (.write 0x00 32 w) s = .instr (.command w) { s with cmd := w } := by
  have hword : (w.setWidth 128).setWidth 32 = w := by simp
  calc fetchEvent (.write 0x00 32 w) s
      = s.writeReg .cmd (w.setWidth 128) := busWrite_reg .cmd _ s
    _ = .instr (.command w) { s with cmd := w } := by rw [State.writeReg, hword]

/-! ### The obligations -/

/-- Settles O5: each of the two ports delivers its word to the decoder. -/
theorem stepRunsDecodedInstruction : Obligations.StepRunsDecodedInstruction := by
  intro s rest i
  exact ⟨fun w h hdec => step_of_instr h (fetchEvent_write_cmd w _) hdec,
    fun slot h hdec => step_of_instr h rfl hdec⟩

/-- Settles O6, the case of the empty list. -/
theorem noEventNoChange : Obligations.NoEventNoChange := fun _ h => step_of_empty h

/-- Settles O7: the 64 bits of a numeric operand pass the 128-bit bus unchanged. -/
theorem operandWriteChangesOneRegister : Obligations.OperandWriteChangesOneRegister := by
  intro s rest v u
  have hvalue : (v.setWidth 128).setWidth 64 = v := by simp
  have hstring : u.setWidth 128 = u := BitVec.setWidth_eq u
  refine ⟨fun h => ?_, fun h => ?_, fun h => ?_, fun h => ?_, fun h => ?_, fun h => ?_⟩
  · exact step_write_reg (r := .argValue) h rfl rfl (by simp only [State.writeReg, hvalue])
  · exact step_write_reg (r := .argRamp) h rfl rfl (by simp only [State.writeReg, hvalue])
  · exact step_write_reg (r := .argLength) h rfl rfl (by simp only [State.writeReg, hvalue])
  · exact step_write_reg (r := .argFreq) h rfl rfl (by simp only [State.writeReg, hvalue])
  · exact step_write_reg (r := .argPin) h rfl rfl (by simp only [State.writeReg, hstring])
  · exact step_write_reg (r := .argHint) h rfl rfl (by simp only [State.writeReg, hstring])

/-- Settles O8: a read that completes has only delivered a register's value. -/
theorem readHasNoSideEffect : Obligations.ReadHasNoSideEffect := by
  intro s t rest offset width h hnext
  rw [step_read h] at hnext
  obtain ⟨r, v, -, -, -, rfl⟩ := busRead_eq_next_iff.mp hnext
  rfl

/-- Settles O10: each clause of a write names a reserved offset or one read-only register. -/
theorem wrongDirectionAccesses : Obligations.WrongDirectionAccesses := by
  intro s rest offset width v
  refine ⟨fun h hclauses => ?_, fun h hreserved => ?_, fun h => ?_⟩
  · have hignored (r : Reg)
        (hreadOnly : ∀ (s' : State) (x : BitVec 128), s'.writeReg r x = .access (.next s'))
        (hclause : (offset, width) = (r.offset, r.width)) :
        step s = .next { s with inbox := rest } := by
      cases hclause
      exact step_write_reg h rfl rfl (hreadOnly _ _)
    rcases hclauses with hreserved | hc | hc | hc | hc | hc | hc
    · exact step_of_access h (busWrite_reserved hreserved width _ _)
    · exact hignored .status (fun _ _ => rfl) hc
    · exact hignored .result (fun _ _ => rfl) hc
    · exact hignored .resAf (fun _ _ => rfl) hc
    · exact hignored .resTimer (fun _ _ => rfl) hc
    · exact hignored .resChannel (fun _ _ => rfl) hc
    · exact hignored .resInverted (fun _ _ => rfl) hc
  · rw [step_read h, busRead_reserved hreserved]
  · exact step_read_of_error (r := .cmd) h rfl

/-- Settles O11: the alignment of the map, then the read and the write that meet no register. -/
theorem partialAccessIsRefused : Obligations.PartialAccessIsRefused := by
  refine ⟨Reg.offset_aligned, ?_⟩
  intro s rest offset width v hlow hwidth h
  rcases h with hread | hwrite
  · rw [step_read hread, busRead_partial hlow hwidth]
  · exact step_of_access hwrite (busWrite_partial hlow hwidth _ _)

end Sys2Proof.Machine
end

section
/-! PROOFS. The frame of an instruction: the other slots, and what only the ports and the
implementation set (O49). -/

namespace Sys2Proof.Machine

/-- What no instruction writes: the operand registers, `CMD`, the events to come, the delivered read
data, `CAP` and `TIMER_EXCLUSIVE`. -/
def State.inputs (s : State) : BitVec 64 × BitVec 64 × BitVec 64 × BitVec 64 × BitVec 128 ×
    BitVec 128 × BitVec 32 × List PortEvent × BitVec 128 × Board :=
  (s.argValue, s.argRamp, s.argLength, s.argFreq, s.argPin, s.argHint, s.cmd, s.inbox, s.readData,
    s.board)

theorem State.inputs_eq_iff {s t : State} : t.inputs = s.inputs ↔
    t.argValue = s.argValue ∧ t.argRamp = s.argRamp ∧ t.argLength = s.argLength ∧
      t.argFreq = s.argFreq ∧ t.argPin = s.argPin ∧ t.argHint = s.argHint ∧ t.cmd = s.cmd ∧
      t.inbox = s.inbox ∧ t.readData = s.readData ∧ t.board = s.board := by
  simp only [State.inputs, Prod.mk.injEq]

/-- `t` is `s` but for slot `i` and for what instructions write outside the slots. -/
structure State.ChangesSlotOnly (i : SlotNum) (s t : State) : Prop where
  inputs : t.inputs = s.inputs
  others : ∀ j, j ≠ i.toNat → t.channelAt j = s.channelAt j

theorem State.ChangesSlotOnly.of_slots {i : SlotNum} {s t : State} (hinputs : t.inputs = s.inputs)
    (hslots : t.slots = s.slots) : State.ChangesSlotOnly i s t :=
  ⟨hinputs, fun j _ => State.channelAt_congr hslots j⟩

/-- A command that writes one slot and succeeds. -/
theorem State.changesSlotOnly_setSlot_succeed (s : State) (i : SlotNum) (x : Option Channel) :
    State.ChangesSlotOnly i s (s.setSlot i x).succeed :=
  ⟨rfl, fun _ hj => State.channelAt_setSlot_ne (s := s) x hj⟩

/-- A command that returns an integer and succeeds writes no slot. -/
theorem State.changesSlotOnly_returnInt_succeed (s : State) (i : SlotNum) (c : Config) (n : Int) :
    State.ChangesSlotOnly i s (s.returnInt c n).succeed :=
  .of_slots (State.inputs_eq_iff.mpr (by simp)) (by simp)

/-- `RESOLVE` writes `STATUS` and the `RES_*` registers (R109). -/
theorem execResolve_inputs_slots {s t : State} (h : execResolve s = .next t) :
    t.inputs = s.inputs ∧ t.slots = s.slots := by
  obtain ⟨pin, hint, -, -, -, ⟨e, -, rfl⟩ | ⟨r, -, rfl⟩⟩ := execResolve_eq_next_iff.mp h
  · exact ⟨rfl, rfl⟩
  · exact ⟨rfl, rfl⟩

theorem construction_changesSlotOnly (c : Config) (i : SlotNum) (pin hint : Bytes)
    (length freq : Rat) (s : State) :
    State.ChangesSlotOnly i s (construction c i pin hint length freq s) := by
  rcases construction_cases c i pin hint length freq s with ⟨e, heq, -⟩ | ⟨r, -, -, heq⟩
  · rw [heq]
    exact .of_slots rfl rfl
  · rw [heq]
    exact ⟨rfl, fun _ hj => State.channelAt_setSlot_ne (s := s) _ hj⟩

theorem execTick_changesSlotOnly {i : SlotNum} {s t : State} (h : execTick i s = .next t) :
    State.ChangesSlotOnly i s t := by
  rcases execTick_eq_next i s with ⟨ch, r, -, -, heq⟩ | ⟨-, heq⟩
  · obtain rfl := Host.Outcome.next.inj (heq.symm.trans h)
    exact ⟨rfl, fun _ hj => State.channelAt_setSlot_ne _ hj⟩
  · obtain rfl := Host.Outcome.next.inj (heq.symm.trans h)
    exact .of_slots rfl rfl

/-- Every instruction changes the slot it names only. -/
theorem exec_changesSlotOnly {i : Instr} {s t : State} (h : exec i s = .next t) :
    State.ChangesSlotOnly i.slot s t := by
  cases i with
  | resolve =>
    obtain ⟨hinputs, hslots⟩ := execResolve_inputs_slots h
    exact .of_slots hinputs hslots
  | construct slot =>
    obtain ⟨pin, hint, -, -, -, -, -, -, -, rfl⟩ := execConstruct_eq_next_iff.mp h
    exact construction_changesSlotOnly _ _ _ _ _ _ s
  | destroy slot =>
    obtain ⟨ch, -, rfl⟩ := execDestroy_eq_next_iff.mp h
    exact s.changesSlotOnly_setSlot_succeed _ _
  | dutySet slot =>
    obtain ⟨ch, -, rfl⟩ := execDutySet_eq_next_iff.mp h
    exact s.changesSlotOnly_setSlot_succeed _ _
  | dutyGet slot =>
    obtain ⟨ch, -, rfl⟩ := execDutyGet_eq_next_iff.mp h
    exact s.changesSlotOnly_returnInt_succeed _ _ _
  | pwSet slot =>
    obtain ⟨ch, -, ⟨-, rfl⟩ | ⟨-, rfl⟩⟩ := execPwSet_eq_next_iff.mp h
    · exact s.changesSlotOnly_setSlot_succeed _ _
    · exact s.changesSlotOnly_setSlot_succeed _ _
  | pwGet slot =>
    obtain ⟨ch, -, rfl⟩ := execPwGet_eq_next_iff.mp h
    exact s.changesSlotOnly_returnInt_succeed _ _ _
  | tick slot => exact execTick_changesSlotOnly h

/-- Settles O49: `RESOLVE` names no slot and writes none, and any other changes its own. -/
theorem instructionFrame : Obligations.InstructionFrame := by
  intro i s t h
  obtain ⟨hinputs, hothers⟩ := exec_changesSlotOnly h
  refine ⟨fun j hj => ?_, State.inputs_eq_iff.mp hinputs⟩
  rcases hj with hj | rfl
  · exact hothers j hj
  · obtain ⟨-, hslots⟩ := execResolve_inputs_slots h
    exact State.channelAt_congr hslots j

end Sys2Proof.Machine
end

section
/-! PROOFS. The encoding of instructions: what the decoder accepts (O1, O2, O3), and which words
written to `CMD` are refused as no commands (O4). -/

namespace Sys2Proof.Machine

/-! ### What the decoder accepts -/

/-- The opcode of a word built from an opcode and a slot (R70). -/
theorem op_commandWord (op : BitVec 4) (slot : SlotNum) :
    CmdWord.op (commandWord op slot) = op := by
  revert op slot
  decide

/-- A word decodes to an instruction exactly when it is that instruction's encoding (R70 to R73). -/
theorem decodeCommand_eq_ok_iff {w : CmdWord} {i : Instr} :
    decodeCommand w = .ok i ↔ encode i = .command w := by
  constructor
  · intro h
    unfold decodeCommand at h
    split at h
    · cases h
    rename_i hzero
    have hword : commandWord (CmdWord.op w) (CmdWord.slot w) = w :=
      commandWord_op_slot (not_not.mp hzero)
    have hencoded (op : BitVec 4) (hop : (CmdWord.op w).toNat = op.toNat) :
        PortWord.command (commandWord op (CmdWord.slot w)) = .command w := by
      rw [← BitVec.eq_of_toNat_eq hop, hword]
    split at h
    case h_1 hop =>
      split_ifs at h with hslot
      cases h
      rw [← hencoded 0x1 hop, hslot]
      rfl
    case h_2 hop => cases h; exact hencoded 0x2 hop
    case h_3 hop => cases h; exact hencoded 0x3 hop
    case h_4 hop => cases h; exact hencoded 0x4 hop
    case h_5 hop => cases h; exact hencoded 0x5 hop
    case h_6 hop => cases h; exact hencoded 0x6 hop
    case h_7 hop => cases h; exact hencoded 0x7 hop
    case h_8 => cases h
  · intro h
    cases i <;> cases h <;>
      simp [decodeCommand, op_commandWord, Sys2Proof.Laws.commandWord_fields]

theorem decode_eq_ok_iff {p : PortWord} {i : Instr} : decode p = .ok i ↔ encode i = p := by
  cases p with
  | command w => exact decodeCommand_eq_ok_iff
  | strobe slot => cases i <;> simp [decode, encode, eq_comm]

/-- The decoder of a block accepts exactly the encodings of the instructions well formed on it. -/
theorem decodeFor_eq_ok_iff {nslots : Nat} {p : PortWord} {i : Instr} :
    decodeFor nslots p = .ok i ↔ encode i = p ∧ i.wellFormed nslots = true := by
  constructor
  · intro h
    refine ⟨decode_eq_ok_iff.mp (decode_of_decodeFor h), ?_⟩
    rw [decodeFor, decode_of_decodeFor h] at h
    by_contra hwf
    simp [hwf] at h
  · rintro ⟨hp, hwf⟩
    simp [decodeFor, decode_eq_ok_iff.mpr hp, hwf]

/-- Settles O1. -/
theorem decodeOfEncode : Obligations.DecodeOfEncode :=
  fun _ _ hwf => decodeFor_eq_ok_iff.mpr ⟨rfl, hwf⟩

/-- Settles O2. -/
theorem encodeOfDecode : Obligations.EncodeOfDecode := fun _ _ _ h => decodeFor_eq_ok_iff.mp h

/-- Settles O3: each of the words is the encoding of an instruction well formed on 4 slots. -/
theorem vectorWordsDecode : Obligations.VectorWordsDecode :=
  have decodes := decodeOfEncode 4
  ⟨decodes .resolve rfl, decodes (.construct 3) rfl, decodes (.destroy 1) rfl,
    decodes (.dutySet 0) rfl, decodes (.dutyGet 2) rfl, decodes (.pwSet 1) rfl,
    decodes (.pwGet 3) rfl, decodes (.tick 9) rfl⟩

/-! ### Words that are no commands (R79) -/

/-- The opcodes that name a slot (R71, R72). -/
theorem slotOpcode_cases {op : BitVec 4} (hlo : 2 ≤ op.toNat) (hhi : op.toNat < 8) :
    op = 2 ∨ op = 3 ∨ op = 4 ∨ op = 5 ∨ op = 6 ∨ op = 7 := by
  revert op
  decide

/-- The words that are commands on a block with `nslots` slots (R71 to R73): `RESOLVE` with `SLOT`
0, and the opcodes 2 to 7 with a slot of the block; `ZERO` is clear in both. -/
def IsCommandWord (nslots : Nat) (w : CmdWord) : Prop :=
  CmdWord.zero w = 0 ∧ ((CmdWord.op w = 1 ∧ CmdWord.slot w = 0) ∨
    (2 ≤ (CmdWord.op w).toNat ∧ (CmdWord.op w).toNat < 8 ∧ (CmdWord.slot w).toNat < nslots))

theorem isCommandWord_of_slotOpcode {nslots : Nat} {op : BitVec 4} {slot : SlotNum}
    (hlo : 2 ≤ op.toNat) (hhi : op.toNat < 8) (hslot : slot.toNat < nslots) :
    IsCommandWord nslots (commandWord op slot) := by
  obtain ⟨hzero, hnumber⟩ := Sys2Proof.Laws.commandWord_fields op slot
  rw [IsCommandWord, op_commandWord, hnumber]
  exact ⟨hzero, .inr ⟨hlo, hhi, hslot⟩⟩

theorem isCommandWord_of_encode {nslots : Nat} {i : Instr} {w : CmdWord}
    (h : encode i = .command w) (hwf : i.wellFormed nslots = true) : IsCommandWord nslots w := by
  have hslot {slot : SlotNum} : decide (slot.toNat < nslots) = true → slot.toNat < nslots :=
    of_decide_eq_true
  cases i with
  | resolve =>
    cases h
    obtain ⟨hzero, hslot⟩ := Sys2Proof.Laws.commandWord_fields 1 0
    exact ⟨hzero, .inl ⟨op_commandWord 1 0, hslot⟩⟩
  | construct _ => cases h; exact isCommandWord_of_slotOpcode (by decide) (by decide) (hslot hwf)
  | destroy _ => cases h; exact isCommandWord_of_slotOpcode (by decide) (by decide) (hslot hwf)
  | dutySet _ => cases h; exact isCommandWord_of_slotOpcode (by decide) (by decide) (hslot hwf)
  | dutyGet _ => cases h; exact isCommandWord_of_slotOpcode (by decide) (by decide) (hslot hwf)
  | pwSet _ => cases h; exact isCommandWord_of_slotOpcode (by decide) (by decide) (hslot hwf)
  | pwGet _ => cases h; exact isCommandWord_of_slotOpcode (by decide) (by decide) (hslot hwf)
  | tick _ => cases h

/-- The decoder of a block accepts exactly its command words. -/
theorem decodeFor_command_isOk_iff {nslots : Nat} {w : CmdWord} :
    (∃ i, decodeFor nslots (.command w) = .ok i) ↔ IsCommandWord nslots w := by
  simp only [decodeFor_eq_ok_iff]
  constructor
  · rintro ⟨i, hw, hwf⟩
    exact isCommandWord_of_encode hw hwf
  · rintro ⟨hzero, hcommand⟩
    have hword := commandWord_op_slot hzero
    rcases hcommand with ⟨hop, hslot⟩ | ⟨hlo, hhi, hslot⟩
    · rw [hop, hslot] at hword
      exact ⟨.resolve, congrArg _ hword, rfl⟩
    · have hwf : decide ((CmdWord.slot w).toNat < nslots) = true := decide_eq_true hslot
      rcases slotOpcode_cases hlo hhi with hop | hop | hop | hop | hop | hop <;> rw [hop] at hword
      · exact ⟨.construct _, congrArg _ hword, hwf⟩
      · exact ⟨.destroy _, congrArg _ hword, hwf⟩
      · exact ⟨.dutySet _, congrArg _ hword, hwf⟩
      · exact ⟨.dutyGet _, congrArg _ hword, hwf⟩
      · exact ⟨.pwSet _, congrArg _ hword, hwf⟩
      · exact ⟨.pwGet _, congrArg _ hword, hwf⟩

/-! ### What a well-formed instruction is not refused for -/

/-- On a slot of the block, a command is refused as an invalid word only if its effect is. -/
theorem onLive_ne_invalidWord {i : SlotNum} {s : State} {k : Channel → Result} {d : DecodeError}
    (hslot : i.toNat < s.slots.length) (hk : ∀ ch, k ch ≠ .refused (.invalidWord d)) :
    onLive i s k ≠ .refused (.invalidWord d) := by
  unfold onLive
  split
  · rename_i habsent
    exact absurd (State.view_absent_iff.mp habsent) (not_le.mpr hslot)
  · simp
  · exact hk _

theorem withStrings_ne_invalidWord {s : State} {k : Bytes → Bytes → Result} {d : DecodeError}
    (hk : ∀ pin hint, k pin hint ≠ .refused (.invalidWord d)) :
    withStrings s k ≠ .refused (.invalidWord d) := by
  unfold withStrings
  split
  · simp
  · split
    · simp
    · exact hk _ _

theorem resolveCmd_ne_invalidWord (pin hint : Bytes) (s : State) (d : DecodeError) :
    resolveCmd pin hint s ≠ .refused (.invalidWord d) := by
  unfold resolveCmd
  split_ifs
  · simp
  · split <;> simp

theorem constructCmd_ne_invalidWord (c : Config) {i : SlotNum} (pin hint : Bytes)
    (length freq : Rat) {s : State} (d : DecodeError) (hslot : i.toNat < s.slots.length) :
    constructCmd c i pin hint length freq s ≠ .refused (.invalidWord d) := by
  unfold constructCmd
  split
  · rename_i habsent
    exact absurd (State.view_absent_iff.mp habsent) (not_le.mpr hslot)
  · simp
  · split_ifs <;> simp

/-- An instruction well formed on the block is never refused as an invalid word. -/
theorem exec_ne_invalidWord {i : Instr} {s : State} (d : DecodeError)
    (hwf : i.wellFormed s.slots.length = true) : exec i s ≠ .refused (.invalidWord d) := by
  cases i with
  | resolve =>
    exact withStrings_ne_invalidWord fun pin hint => resolveCmd_ne_invalidWord pin hint s d
  | construct slot =>
    exact withStrings_ne_invalidWord fun pin hint =>
      constructCmd_ne_invalidWord _ pin hint _ _ d (of_decide_eq_true hwf)
  | destroy slot => exact onLive_ne_invalidWord (of_decide_eq_true hwf) (by simp)
  | dutySet slot => exact onLive_ne_invalidWord (of_decide_eq_true hwf) (by simp)
  | dutyGet slot => exact onLive_ne_invalidWord (of_decide_eq_true hwf) (by simp)
  | pwSet slot =>
    refine onLive_ne_invalidWord (of_decide_eq_true hwf) fun ch => ?_
    split_ifs <;> simp
  | pwGet slot => exact onLive_ne_invalidWord (of_decide_eq_true hwf) (by simp)
  | tick slot =>
    rw [exec]
    rcases execTick_eq_next slot s with ⟨ch, r, -, -, heq⟩ | ⟨-, heq⟩ <;> simp [heq]

theorem step_of_decodeError {s s' : State} {e : PortEvent} {rest : List PortEvent} {p : PortWord}
    {d : DecodeError} (h : s.inbox = e :: rest)
    (hf : fetchEvent e { s with inbox := rest } = .instr p s')
    (hdec : decodeFor s'.slots.length p = .error d) : step s = .refused (.invalidWord d) := by
  simp only [step, h, hf, hdec]

/-- A word written to `CMD` is refused as an invalid word exactly when the block's decoder accepts
it as no instruction. -/
theorem step_write_cmd_invalidWord_iff {s : State} {w : CmdWord} {rest : List PortEvent}
    (h : s.inbox = .write 0x00 32 w :: rest) :
    (∃ d, step s = .refused (.invalidWord d)) ↔
      ¬ ∃ i, decodeFor s.slots.length (.command w) = .ok i := by
  have hfetch := fetchEvent_write_cmd w { s with inbox := rest }
  cases hdec : decodeFor s.slots.length (.command w) with
  | error d => simpa using ⟨d, step_of_decodeError h hfetch hdec⟩
  | ok i =>
    have hwf : i.wellFormed s.slots.length = true := (decodeFor_eq_ok_iff.mp hdec).2
    rw [step_of_instr h hfetch hdec]
    simpa using fun d => exec_ne_invalidWord (s := { s with inbox := rest, cmd := w }) d hwf

/-- Settles O4: R79 lists the words that the block's decoder does not accept. -/
theorem reservedWordsAreRefused : Obligations.ReservedWordsAreRefused := by
  intro s w rest h
  rw [step_write_cmd_invalidWord_iff h, decodeFor_command_isOk_iff, IsCommandWord]
  change (CmdWord.op w = 0#4 ∨ 8 ≤ (CmdWord.op w).toNat ∨ CmdWord.zero w ≠ 0#24 ∨
    (CmdWord.op w = 1#4 ∧ CmdWord.slot w ≠ 0#4) ∨
    (CmdWord.op w ≠ 1#4 ∧ s.slots.length ≤ (CmdWord.slot w).toNat)) ↔ _
  have hnone : CmdWord.op w = 0#4 ↔ (CmdWord.op w).toNat = 0 := BitVec.toNat_inj.symm
  have hresolve : CmdWord.op w = 1#4 ↔ (CmdWord.op w).toNat = 1 := BitVec.toNat_inj.symm
  have hslot : CmdWord.slot w = 0#4 ↔ (CmdWord.slot w).toNat = 0 := BitVec.toNat_inj.symm
  by_cases hzero : CmdWord.zero w = 0#24
  · simp [hzero, hnone, hresolve, hslot]
    omega
  · simp [hzero]

end Sys2Proof.Machine
end

section
/-! PROOFS. String registers (R75): which patterns are well formed (O14), and the one pattern of a
string (O15). -/

namespace Sys2Proof.Machine

/-! ### Which patterns are well formed -/

/-- A pattern reads as a string exactly when its length byte is at most 15 and the bytes after the
last character are 0; the string is then the bytes from byte 1 on. -/
theorem strOf_eq_some_iff {v : BitVec 128} {b : Bytes} :
    strOf v = some b ↔ (regByte v 0).toNat ≤ 15 ∧
      (∀ k, (regByte v 0).toNat < k → k ≤ 15 → regByte v k = 0) ∧
      b = (List.range (regByte v 0).toNat).map fun k => regByte v (k + 1) := by
  have hpadding : ((List.range strMax).all
        fun k => k < (regByte v 0).toNat || regByte v (k + 1) == 0) = true ↔
      ∀ k, (regByte v 0).toNat < k → k ≤ 15 → regByte v k = 0 := by
    simp only [strMax, List.all_eq_true, List.mem_range, Bool.or_eq_true,
      decide_eq_true_eq, beq_iff_eq]
    constructor
    · intro h k hlo hhi
      obtain ⟨j, rfl⟩ : ∃ j, k = j + 1 := ⟨k - 1, by omega⟩
      exact (h j (by omega)).resolve_left (by omega)
    · intro h k hk
      exact (Nat.lt_or_ge k _).imp_right fun hge => h (k + 1) (by omega) (by omega)
  unfold strOf
  dsimp only
  split_ifs with hwf
  · obtain ⟨hlen, hpad⟩ := hwf
    rw [Option.some.injEq, eq_comm]
    exact ⟨fun hb => ⟨hlen, hpadding.mp hpad, hb⟩, fun ⟨_, _, hb⟩ => hb⟩
  · exact ⟨nofun, fun ⟨hlen, hpad, _⟩ => absurd ⟨hlen, hpadding.mpr hpad⟩ hwf⟩

theorem strOf_eq_none_iff {v : BitVec 128} :
    strOf v = none ↔ 15 < (regByte v 0).toNat ∨
      ∃ k, (regByte v 0).toNat < k ∧ k ≤ 15 ∧ regByte v k ≠ 0 := by
  have hwf : (∃ b, strOf v = some b) ↔ (regByte v 0).toNat ≤ 15 ∧
      ∀ k, (regByte v 0).toNat < k → k ≤ 15 → regByte v k = 0 := by
    simp [strOf_eq_some_iff]
  rw [Option.eq_none_iff_forall_ne_some, ← not_exists, hwf, not_and_or]
  push Not
  rfl

theorem length_of_strOf {v : BitVec 128} {b : Bytes} (h : strOf v = some b) :
    b.length = (regByte v 0).toNat := by
  obtain ⟨-, -, rfl⟩ := strOf_eq_some_iff.mp h
  simp

theorem getElem?_of_strOf {v : BitVec 128} {b : Bytes} (h : strOf v = some b) {k : Nat}
    (hk : k < b.length) : b[k]? = some (regByte v (k + 1)) := by
  rw [length_of_strOf h] at hk
  obtain ⟨-, -, rfl⟩ := strOf_eq_some_iff.mp h
  simp [hk]

/-- A command that reads a malformed string register is refused (R75). -/
theorem withStrings_of_malformed {s : State} (k : Bytes → Bytes → Result)
    (h : strOf s.argPin = none ∨ strOf s.argHint = none) :
    withStrings s k = .refused .malformedString := by
  unfold withStrings
  rcases h with h | h
  · rw [h]
  · rw [h]
    split <;> rfl

/-- Settles O14. -/
theorem stringRegisterFormat : Obligations.StringRegisterFormat :=
  ⟨fun _ => strOf_eq_none_iff,
    fun _ _ h => ⟨length_of_strOf h, fun _ hk => getElem?_of_strOf h hk⟩,
    fun _ _ h => ⟨⟨_, withStrings_of_malformed _ h⟩, ⟨_, withStrings_of_malformed _ h⟩⟩⟩

/-! ### The bytes of a pattern -/

theorem toNat_regByte (v : BitVec 128) (k : Nat) :
    (regByte v k).toNat = v.toNat / 256 ^ k % 256 := by
  rw [regByte, BitVec.extractLsb'_toNat, Nat.shiftRight_eq_div_pow, pow_mul]
  norm_num

/-- A pattern is made of its 16 bytes. -/
theorem eq_of_regByte_eq {u v : BitVec 128} (h : ∀ k < 16, regByte u k = regByte v k) : u = v := by
  refine BitVec.eq_of_getLsbD_eq fun i hi => ?_
  have hbit := congrArg (fun b : Byte => b.getLsbD (i % 8)) (h (i / 8) (by omega))
  simpa [regByte, BitVec.getLsbD_extractLsb', Nat.mod_lt, Nat.div_add_mod] using hbit

/-- Byte `k` of a packed list is its `k`-th byte, and 0 past its end. -/
theorem packBytes_div_mod (l : Bytes) (k : Nat) :
    packBytes l / 256 ^ k % 256 = (l.getD k 0).toNat := by
  induction l generalizing k with
  | nil => simp [packBytes]
  | cons b bs ih =>
    have hb := b.isLt
    cases k with
    | zero => simp [packBytes]; omega
    | succ k =>
      have hdrop : (b.toNat + 256 * packBytes bs) / 256 = packBytes bs := by omega
      rw [packBytes, pow_succ', ← Nat.div_div_eq_div_mul, hdrop, ih, List.getD_cons_succ]

theorem regByte_ofNat_packBytes (l : Bytes) {k : Nat} (hk : k < 16) :
    regByte (BitVec.ofNat 128 (packBytes l)) k = l.getD k 0 := by
  apply BitVec.eq_of_toNat_eq
  have hwidth : (2 : Nat) ^ 128 = 256 ^ k * 256 ^ (16 - k) := by
    rw [← pow_add, Nat.add_sub_cancel' hk.le]
    norm_num
  have hbyte : 256 ∣ 256 ^ (16 - k) := dvd_pow_self _ (by omega)
  rw [toNat_regByte, BitVec.toNat_ofNat, hwidth, Nat.mod_mul_right_div_self,
    Nat.mod_mod_of_dvd _ hbyte, packBytes_div_mod]

/-- A pattern that is packed for a string holds its length in byte 0 and its characters from byte 1
on; the other bytes are 0. -/
theorem regByte_packStr {b : Bytes} (hb : b.length ≤ 15) {k : Nat} (hk : k < 16) :
    regByte (packStr b) k = (BitVec.ofNat 8 b.length :: b).getD k 0 := by
  have hlen : (BitVec.ofNat 8 b.length).toNat = b.length := by
    rw [BitVec.toNat_ofNat]
    omega
  rw [← regByte_ofNat_packBytes _ hk, packBytes, hlen, packStr]

/-! ### The pattern of a string -/

theorem strOf_packStr {b : Bytes} (hb : b.length ≤ 15) : strOf (packStr b) = some b := by
  have hlen : (regByte (packStr b) 0).toNat = b.length := by
    rw [regByte_packStr hb (by decide), List.getD_cons_zero, BitVec.toNat_ofNat]
    omega
  refine strOf_eq_some_iff.mpr ⟨hlen.trans_le hb, fun k hlo hhi => ?_, ?_⟩
  · rw [hlen] at hlo
    rw [regByte_packStr hb (by omega), List.getD_eq_default _ _ (by simpa using hlo)]
  · rw [hlen]
    refine List.ext_getElem (by simp) fun k hk _ => ?_
    rw [List.getElem_map, List.getElem_range, regByte_packStr hb (by omega), List.getD_cons_succ,
      List.getD_eq_getElem _ _ hk]

theorem packStr_of_strOf {v : BitVec 128} {b : Bytes} (h : strOf v = some b) : packStr b = v := by
  obtain ⟨hmax, hpad, -⟩ := strOf_eq_some_iff.mp h
  have hlen := length_of_strOf h
  refine eq_of_regByte_eq fun k hk => ?_
  rw [regByte_packStr (hlen.trans_le hmax) hk]
  cases k with
  | zero => simp [hlen]
  | succ k =>
    rw [List.getD_cons_succ]
    rcases Nat.lt_or_ge k b.length with hin | hout
    · rw [List.getD_eq_getElem?_getD, getElem?_of_strOf h hin, Option.getD_some]
    · rw [List.getD_eq_default _ _ hout, hpad (k + 1) (by omega) (by omega)]

/-- Settles O15. -/
theorem stringRegisterRoundTrip : Obligations.StringRegisterRoundTrip :=
  ⟨fun _ => strOf_packStr, fun _ _ => packStr_of_strOf⟩

end Sys2Proof.Machine
end

section
/-! PROOFS. `unfix`, the inverse of `fix` (O16), and what `PW_GET` leaves in `RESULT` for every
width (O33). -/

namespace Sys2Proof.Machine

theorem unfix_eq_some_iff {q : Rat} {v : BitVec 64} :
    unfix q = some v ↔ (v.toInt : Rat) = q * 65536 := by
  unfold unfix
  dsimp only
  constructor
  · intro h
    split_ifs at h with hdefined
    obtain ⟨hden, hlo, hhi⟩ := hdefined
    obtain rfl := Option.some.inj h
    rw [BitVec.toInt_ofInt_eq_self (by decide) (by simpa using hlo) (by simpa using hhi)]
    exact Rat.den_eq_one_iff _ |>.mp hden
  · intro h
    have hlo := BitVec.le_toInt v
    have hhi := BitVec.toInt_lt (x := v)
    rw [← h, Rat.den_intCast, Rat.num_intCast, if_pos ⟨rfl, by simpa using hlo, by simpa using hhi⟩,
      BitVec.ofInt_toInt]

/-- Settles O16. -/
theorem unfixIsTheInverseOfFix : Obligations.UnfixIsTheInverseOfFix := fun _ _ => unfix_eq_some_iff

/-- An integer of 2^47 or more has no pattern. -/
theorem unfix_intCast_eq_none {n : Int} (h : 2 ^ 47 ≤ n) : unfix n = none := by
  rw [Option.eq_none_iff_forall_ne_some]
  intro v hv
  have hpattern : v.toInt = n * 65536 := by exact_mod_cast unfix_eq_some_iff.mp hv
  have hhi := BitVec.toInt_lt (x := v)
  omega

theorem le_roundQ {c : Config} {n : Int} {x : Rat} (h : n ≤ x) : n ≤ roundQ c x := by
  have hnear := (abs_le.mp (roundQ_near c x)).1
  have hlt : ((n - 1 : Int) : Rat) < roundQ c x := by
    push_cast
    linarith
  have := Int.cast_lt.mp hlt
  omega

/-- Settles O33, by whether the rounded width has a pattern. -/
theorem pwGetAlwaysCompletes : Obligations.PwGetAlwaysCompletes := by
  intro s slot ch hc
  have hexec : exec (.pwGet slot) s =
      .next (s.returnInt Config.platform (roundQ Config.platform ch.cur)).succeed :=
    execPwGet_eq_next_iff.mpr ⟨ch, hc, rfl⟩
  rw [hexec]
  cases hv : unfix (roundQ Config.platform ch.cur) with
  | some v =>
    refine ⟨v, s.freeIndex, ?_, fun hbig => ?_⟩
    · rw [State.returnInt_of_some _ _ hv]
      rfl
    · have hround : (2 : Int) ^ 47 ≤ roundQ Config.platform ch.cur :=
        le_roundQ (by exact_mod_cast hbig)
      simp [unfix_intCast_eq_none hround] at hv
  | none =>
    refine ⟨_, _, ?_, fun _ => ⟨rfl, rfl⟩⟩
    rw [State.returnInt_of_none _ _ hv]
    rfl

end Sys2Proof.Machine
end

section
/-! PROOFS. The grammar of channel names (R83, O17). -/

namespace Sys2Proof.Machine

/-! ### The pieces of a name -/

theorem afterLiteral_eq_some_iff {lit s r : Bytes} :
    afterLiteral lit s = some r ↔ s = lit ++ r := by
  induction lit generalizing s with
  | nil => simp [afterLiteral]
  | cons a as ih =>
    cases s with
    | nil => simp [afterLiteral]
    | cons b bs =>
      by_cases hab : a = b
      · simp [afterLiteral, hab, ih]
      · simp [afterLiteral, hab, Ne.symm hab]

theorem spanDigits_append_self (s : Bytes) : (spanDigits s).1 ++ (spanDigits s).2 = s := by
  induction s with
  | nil => rfl
  | cons b bs ih =>
    rw [spanDigits]
    split_ifs
    · rw [List.cons_append, ih]
    · rfl

/-- Digits in front of what does not begin with one are the longest run of digits. -/
theorem spanDigits_append {ds r : Bytes} (hds : ∀ d ∈ ds, isDigit d = true)
    (hr : ∀ d ∈ r.head?, isDigit d = false) : spanDigits (ds ++ r) = (ds, r) := by
  induction ds with
  | nil =>
    cases r with
    | nil => rfl
    | cons b bs => simp [spanDigits, hr b rfl]
  | cons d ds ih =>
    have htail := ih fun x hx => hds x (List.mem_cons_of_mem _ hx)
    simp [spanDigits, hds d List.mem_cons_self, htail]

theorem isDigit_iff {b : Byte} : isDigit b = true ↔ 0x30 ≤ b.toNat ∧ b.toNat ≤ 0x39 := by
  simp [isDigit]

/-! ### Classes -/

/-- A name whose parts are `TIM`, the digits `ds`, `_CH`, the digits `cs` and the rest `tail`
(R83). -/
structure NameParts (name ds cs tail : Bytes) : Prop where
  timer_ne : ds ≠ []
  channel_ne : cs ≠ []
  digits : ∀ b ∈ ds ++ cs, 0x30 ≤ b.toNat ∧ b.toNat ≤ 0x39
  name_eq : name = timLiteral ++ ds ++ chLiteral ++ cs ++ tail

/-- The class of a name with these parts is decided by what follows the second digits. -/
theorem NameParts.classify_eq {name ds cs tail : Bytes} (h : NameParts name ds cs tail)
    (htail : ∀ b ∈ tail.head?, isDigit b = false) :
    classify name = classifyEnd (decimal ds) (decimal cs) tail := by
  have hdigits : ∀ b ∈ ds ++ cs, isDigit b = true := fun b hb => isDigit_iff.mpr (h.digits b hb)
  have htim : afterLiteral timLiteral name = some (ds ++ (chLiteral ++ (cs ++ tail))) :=
    afterLiteral_eq_some_iff.mpr (by simp [h.name_eq])
  have htimer : spanDigits (ds ++ (chLiteral ++ (cs ++ tail))) = (ds, chLiteral ++ (cs ++ tail)) :=
    spanDigits_append (fun d hd => hdigits d (List.mem_append_left _ hd))
      (by simp [chLiteral, isDigit])
  have hch : afterLiteral chLiteral (chLiteral ++ (cs ++ tail)) = some (cs ++ tail) :=
    afterLiteral_eq_some_iff.mpr rfl
  have hchannel : spanDigits (cs ++ tail) = (cs, tail) :=
    spanDigits_append (fun d hd => hdigits d (List.mem_append_right _ hd)) htail
  simp [classify, htim, htimer, h.timer_ne, hch, hchannel, h.channel_ne]

/-- A channel name has the parts of R83. -/
theorem exists_nameParts_of_classify {name : Bytes} (h : classify name ≠ .other) :
    ∃ ds cs tail, NameParts name ds cs tail ∧
      classify name = classifyEnd (decimal ds) (decimal cs) tail := by
  unfold classify at h ⊢
  split at h
  · exact absurd rfl h
  · rename_i r1 htim
    split_ifs at h ⊢ with hds
    · exact absurd rfl h
    · split at h
      · exact absurd rfl h
      · rename_i r2 hch
        split_ifs at h ⊢ with hcs
        · exact absurd rfl h
        · refine ⟨(spanDigits r1).1, (spanDigits r2).1, (spanDigits r2).2, ⟨hds, hcs, ?_, ?_⟩, rfl⟩
          · exact fun b hb => isDigit_iff.mp
              ((List.mem_append.mp hb).elim isDigit_of_mem_spanDigits isDigit_of_mem_spanDigits)
          · calc name
                = timLiteral ++ ((spanDigits r1).1 ++ (spanDigits r1).2) := by
                  rw [spanDigits_append_self, afterLiteral_eq_some_iff.mp htim]
              _ = timLiteral ++ ((spanDigits r1).1 ++ (chLiteral ++
                    ((spanDigits r2).1 ++ (spanDigits r2).2))) := by
                  rw [spanDigits_append_self r2, afterLiteral_eq_some_iff.mp hch]
              _ = _ := by simp only [List.append_assoc]

theorem classifyEnd_eq_oc_iff {n c n' c' : Nat} {s : Bytes} :
    classifyEnd n c s = .oc n' c' ↔ s = [] ∧ n' = n ∧ c' = c := by
  unfold classifyEnd
  split
  · simp [eq_comm]
  · split_ifs <;> simp
  · simp

theorem classifyEnd_eq_ocn_iff {n c n' c' : Nat} {s : Bytes} :
    classifyEnd n c s = .ocn n' c' ↔ s = [0x4E] ∧ n' = n ∧ c' = c := by
  unfold classifyEnd
  split
  · simp
  · split_ifs with hN
    · simp [hN, eq_comm]
    · simpa using fun h => absurd h hN
  · simp

theorem classify_eq_oc_iff {name : Bytes} {n c : Nat} :
    classify name = .oc n c ↔
      ∃ ds cs, NameParts name ds cs [] ∧ n = decimal ds ∧ c = decimal cs := by
  constructor
  · intro h
    obtain ⟨ds, cs, tail, hparts, hend⟩ := exists_nameParts_of_classify (name := name) (by simp [h])
    obtain ⟨rfl, hn, hc⟩ := classifyEnd_eq_oc_iff.mp (hend.symm.trans h)
    exact ⟨ds, cs, hparts, hn, hc⟩
  · rintro ⟨ds, cs, hparts, rfl, rfl⟩
    exact hparts.classify_eq (by simp)

theorem classify_eq_ocn_iff {name : Bytes} {n c : Nat} :
    classify name = .ocn n c ↔
      ∃ ds cs, NameParts name ds cs [0x4E] ∧ n = decimal ds ∧ c = decimal cs := by
  constructor
  · intro h
    obtain ⟨ds, cs, tail, hparts, hend⟩ := exists_nameParts_of_classify (name := name) (by simp [h])
    obtain ⟨rfl, hn, hc⟩ := classifyEnd_eq_ocn_iff.mp (hend.symm.trans h)
    exact ⟨ds, cs, hparts, hn, hc⟩
  · rintro ⟨ds, cs, hparts, rfl, rfl⟩
    exact hparts.classify_eq (by simp [isDigit])

/-! ### Numerals -/

theorem decimal_append_singleton (ds : Bytes) (d : Byte) :
    decimal (ds ++ [d]) = 10 * decimal ds + (d.toNat - 0x30) := by
  simp [decimal, digitValue]

/-- A leading zero does not change the value. -/
theorem decimal_zero_cons (ds : Bytes) : decimal (0x30 :: ds) = decimal ds := by
  simp [decimal, digitValue]

/-- Settles O17. -/
theorem channelNameGrammar : Obligations.ChannelNameGrammar := by
  refine ⟨fun name n c => ?_, fun name n c => ?_, decimal_append_singleton, decimal_zero_cons⟩
  · rw [classify_eq_oc_iff]
    constructor
    · rintro ⟨ds, cs, ⟨hds, hcs, hdigits, hname⟩, hn, hc⟩
      exact ⟨ds, cs, hds, hcs, hdigits, hname.trans (List.append_nil _), hn, hc⟩
    · rintro ⟨ds, cs, hds, hcs, hdigits, hname, hn, hc⟩
      exact ⟨ds, cs, ⟨hds, hcs, hdigits, hname.trans (List.append_nil _).symm⟩, hn, hc⟩
  · rw [classify_eq_ocn_iff]
    constructor
    · rintro ⟨ds, cs, ⟨hds, hcs, hdigits, hname⟩, hn, hc⟩
      exact ⟨ds, cs, hds, hcs, hdigits, hname, hn, hc⟩
    · rintro ⟨ds, cs, hds, hcs, hdigits, hname, hn, hc⟩
      exact ⟨ds, cs, ⟨hds, hcs, hdigits, hname⟩, hn, hc⟩

end Sys2Proof.Machine
end

section
/-! PROOFS. Errors: which instructions raise one, and that it changes `STATUS` only (R215, R216;
O24, O50). Then the abstract command of a word (O46). -/

namespace Sys2Proof.Machine

/-! ### A `CONSTRUCT` that fails -/

theorem construction_of_error {c : Config} {i : SlotNum} {pin hint : Bytes} {length freq : Rat}
    {s : State} {e : ErrorKind} (h : resolve s.board.cap pin hint = .error e) :
    construction c i pin hint length freq s = s.raise e := by
  simp [construction, h]

/-- A live channel on the resolved timer that has the pair, or that cannot share the timer, keeps
the construction out (R124, R125). -/
theorem construction_of_conflict {c : Config} {i : SlotNum} {pin hint : Bytes} {length freq : Rat}
    {s : State} {r : Resolved} {j : Nat} {ch : Channel}
    (h : resolve s.board.cap pin hint = .ok r) (hc : s.channelAt j = some ch)
    (htimer : ch.timerId = r.timerIndex)
    (hclash : s.board.timerExclusive = true ∨ ch.channelId = r.channelIndex ∨
      ch.periodUs ≠ realisedPeriod c r.timerIndex length freq) :
    construction c i pin hint length freq s = s.raise .channelInUse := by
  have hconflict : s.conflict r.timerIndex r.channelIndex
      (realisedPeriod c r.timerIndex length freq) = true := by
    by_contra hfree
    obtain ⟨hshared, hchannel, hperiod⟩ :=
      State.conflict_eq_false_iff.mp (Bool.eq_false_of_not_eq_true hfree) j ch hc htimer
    simp [hshared, hchannel, hperiod] at hclash
  simp [construction, h, hconflict]

/-- Settles O24: past the refusals `CONSTRUCT` is `construction`, which fails in these two ways. -/
theorem failedConstructChangesStatusOnly : Obligations.FailedConstructChangesStatusOnly := by
  intro s slot pin hint hempty hpin hhint hne hlength hfreq hfree
  have hexec : exec (.construct slot) s =
      .next (construction Config.platform slot pin hint (fix s.argLength) (fix s.argFreq) s) :=
    execConstruct_eq_next_iff.mpr ⟨pin, hint, hpin, hhint, State.view_empty_iff.mpr hempty, hne,
      hlength, hfreq, State.pinBound_eq_false_iff.mpr hfree, rfl⟩
  rw [hexec]
  refine ⟨fun h => ?_, fun h => ?_, fun e h => resolve_error h, fun r j ch h hc htimer hclash => ?_⟩
  · rw [construction_of_error h]
    rfl
  · rw [construction_of_error h]
    rfl
  · rw [construction_of_conflict h hc htimer hclash]
    rfl

/-! ### Errors in general -/

/-- `RESOLVE` succeeds, or raises an error of the resolver (R109). -/
theorem execResolve_status {s t : State} (h : execResolve s = .next t) :
    t.status = 0 ∨ t = { s with status := 1 } ∨ t = { s with status := 2 } := by
  obtain ⟨pin, hint, -, -, -, ⟨e, he, rfl⟩ | ⟨r, -, rfl⟩⟩ := execResolve_eq_next_iff.mp h
  · rcases resolve_error he with rfl | rfl
    · exact .inr (.inl rfl)
    · exact .inr (.inr rfl)
  · exact .inl rfl

/-- `CONSTRUCT` succeeds, or raises one of three errors (R126). -/
theorem construction_status (c : Config) (i : SlotNum) (pin hint : Bytes) (length freq : Rat)
    (s : State) :
    (construction c i pin hint length freq s).status = 0 ∨
      construction c i pin hint length freq s = { s with status := 1 } ∨
      construction c i pin hint length freq s = { s with status := 2 } ∨
      construction c i pin hint length freq s = { s with status := 3 } := by
  rcases construction_cases c i pin hint length freq s with
    ⟨e, heq, rfl | rfl | rfl⟩ | ⟨r, -, -, heq⟩
  · exact .inr (.inl heq)
  · exact .inr (.inr (.inl heq))
  · exact .inr (.inr (.inr heq))
  · rw [heq]
    exact .inl rfl

/-- A tick changes the slots only (R164, R216). -/
theorem execTick_changes_slots {i : SlotNum} {s t : State} (h : execTick i s = .next t) :
    t = { s with slots := t.slots } := by
  rcases execTick_eq_next i s with ⟨ch, r, -, -, heq⟩ | ⟨-, heq⟩
  · obtain rfl := Host.Outcome.next.inj (heq.symm.trans h)
    rfl
  · obtain rfl := Host.Outcome.next.inj (heq.symm.trans h)
    rfl

/-- Settles O50: the five commands on a live slot always succeed when they complete. -/
theorem errorChangesStatusOnly : Obligations.ErrorChangesStatusOnly := by
  intro i s t h
  cases i with
  | resolve =>
    rcases execResolve_status h with hzero | hone | htwo
    · exact .inl hzero
    · exact .inr (.inr ⟨.inl rfl, .inl hone⟩)
    · exact .inr (.inr ⟨.inl rfl, .inr (.inl htwo)⟩)
  | construct slot =>
    obtain ⟨pin, hint, -, -, -, -, -, -, -, rfl⟩ := execConstruct_eq_next_iff.mp h
    rcases construction_status _ slot pin hint _ _ s with hzero | hone | htwo | hthree
    · exact .inl hzero
    · exact .inr (.inr ⟨.inr ⟨slot, rfl⟩, .inl hone⟩)
    · exact .inr (.inr ⟨.inr ⟨slot, rfl⟩, .inr (.inl htwo)⟩)
    · exact .inr (.inr ⟨.inr ⟨slot, rfl⟩, .inr (.inr ⟨hthree, nofun⟩)⟩)
  | destroy slot =>
    obtain ⟨ch, -, rfl⟩ := execDestroy_eq_next_iff.mp h
    exact .inl rfl
  | dutySet slot =>
    obtain ⟨ch, -, rfl⟩ := execDutySet_eq_next_iff.mp h
    exact .inl rfl
  | dutyGet slot =>
    obtain ⟨ch, -, rfl⟩ := execDutyGet_eq_next_iff.mp h
    exact .inl rfl
  | pwSet slot =>
    obtain ⟨ch, -, ⟨-, rfl⟩ | ⟨-, rfl⟩⟩ := execPwSet_eq_next_iff.mp h
    · exact .inl rfl
    · exact .inl rfl
  | pwGet slot =>
    obtain ⟨ch, -, rfl⟩ := execPwGet_eq_next_iff.mp h
    exact .inl rfl
  | tick slot => exact .inr (.inl ⟨slot, rfl, execTick_changes_slots h⟩)

/-! ### The abstract command of a word -/

theorem commandOf_resolve_eq_some_iff {s : State} {cmd : Command} :
    commandOf s .resolve = some cmd ↔ ∃ pin hint, strOf s.argPin = some pin ∧
      strOf s.argHint = some hint ∧ cmd = .resolve pin hint := by
  cases hp : strOf s.argPin <;> cases hh : strOf s.argHint <;> simp [commandOf, hp, hh, eq_comm]

theorem commandOf_construct_eq_some_iff {s : State} {slot : SlotNum} {cmd : Command} :
    commandOf s (.construct slot) = some cmd ↔ ∃ pin hint, strOf s.argPin = some pin ∧
      strOf s.argHint = some hint ∧
      cmd = .construct slot pin hint (fix s.argLength) (fix s.argFreq) := by
  cases hp : strOf s.argPin <;> cases hh : strOf s.argHint <;> simp [commandOf, hp, hh, eq_comm]

/-- Settles O46: only `RESOLVE` and `CONSTRUCT` read operands that may be malformed. -/
theorem wordRunsAbstractCommand : Obligations.WordRunsAbstractCommand := by
  intro i s cmd h
  cases i with
  | resolve =>
    obtain ⟨pin, hint, hpin, hhint, rfl⟩ := commandOf_resolve_eq_some_iff.mp h
    exact withStrings_of_some hpin hhint
  | construct slot =>
    obtain ⟨pin, hint, hpin, hhint, rfl⟩ := commandOf_construct_eq_some_iff.mp h
    exact withStrings_of_some hpin hhint
  | destroy slot => cases h; rfl
  | dutySet slot => cases h; rfl
  | dutyGet slot => cases h; rfl
  | pwSet slot => cases h; rfl
  | pwGet slot => cases h; rfl
  | tick slot => cases h

end Sys2Proof.Machine
end

section
/-! PROOFS. Capability resolution on the pin's own list: which entry is selected with and without a
hint (O19, O20), which error is given (O21), and the command `RESOLVE` (O22). -/

namespace Sys2Proof.Machine

/-! ### Channel entries and prefixes -/

theorem startsWith_iff_prefix {s h : Bytes} : startsWith s h = true ↔ h <+: s := by
  rw [startsWith, Option.isSome_iff_exists]
  exact exists_congr fun r => afterLiteral_eq_some_iff.trans eq_comm

/-- The two classes of channel name are the ones that give an entry, inverted for an OCN name (R84). -/
theorem channelEntry_eq_some_iff {e : CapEntry} {x : ChannelEntry} :
    channelEntry e = some x ↔ ∃ n c inv, classify e.name = (if inv then .ocn n c else .oc n c) ∧
      x = ⟨e.name, ⟨e.altFunction, n, c, inv⟩⟩ := by
  unfold channelEntry
  cases classify e.name with
  | oc n c => simp [eq_comm]
  | ocn n c => simp [eq_comm]
  | other => simp

theorem channelEntry_eq_none_iff {e : CapEntry} :
    channelEntry e = none ↔ classify e.name = .other := by
  unfold channelEntry
  cases classify e.name <;> simp

theorem channelEntries_eq_nil_iff {es : List CapEntry} :
    es.filterMap channelEntry = [] ↔ ∀ e ∈ es, classify e.name = .other := by
  simp only [List.filterMap_eq_nil_iff, channelEntry_eq_none_iff]

/-! ### The entry that a hint selects -/

/-- The test that resolution puts to a channel entry: the hint where there is one (R104), else that
the channel is not complementary (R106). -/
def ChannelEntry.selectedBy (hint : Bytes) (x : ChannelEntry) : Bool :=
  if hint = [] then !x.result.inverted else startsWith x.name hint

/-- The same test on a candidate of the pin's list; a non-channel entry fails it (R102). -/
def CapEntry.selectedBy (hint : Bytes) (e : CapEntry) : Bool :=
  (channelEntry e).any (ChannelEntry.selectedBy hint)

theorem ChannelEntry.selectedBy_nil :
    ChannelEntry.selectedBy [] = fun x => !x.result.inverted := rfl

theorem ChannelEntry.selectedBy_hint {hint : Bytes} (hhint : hint ≠ []) :
    ChannelEntry.selectedBy hint = fun x => startsWith x.name hint :=
  funext fun _ => if_neg hhint

theorem CapEntry.selectedBy_hint_iff {hint : Bytes} {e : CapEntry} (hhint : hint ≠ []) :
    CapEntry.selectedBy hint e = true ↔ classify e.name ≠ .other ∧ hint <+: e.name := by
  unfold selectedBy
  cases he : channelEntry e with
  | none => simp [channelEntry_eq_none_iff.mp he]
  | some x =>
    obtain ⟨n, c, inv, hclass, rfl⟩ := channelEntry_eq_some_iff.mp he
    cases inv <;> simp [hclass, ChannelEntry.selectedBy_hint hhint, startsWith_iff_prefix]

theorem CapEntry.selectedBy_nil_iff {e : CapEntry} :
    CapEntry.selectedBy [] e = true ↔ ∃ n c, classify e.name = .oc n c := by
  unfold selectedBy
  cases he : channelEntry e with
  | none => simp [channelEntry_eq_none_iff.mp he]
  | some x =>
    obtain ⟨n, c, inv, hclass, rfl⟩ := channelEntry_eq_some_iff.mp he
    cases inv <;> simp [hclass, ChannelEntry.selectedBy_nil]

theorem CapEntry.not_selectedBy_of_other {hint : Bytes} {e : CapEntry}
    (h : classify e.name = .other) : ¬ CapEntry.selectedBy hint e = true := by
  simp [selectedBy, channelEntry_eq_none_iff.mpr h]

/-- The first channel entry that passes the test is that of the first candidate that passes it. -/
theorem find?_channelEntries (es : List CapEntry) (hint : Bytes) :
    (es.filterMap channelEntry).find? (ChannelEntry.selectedBy hint) =
      (es.find? (CapEntry.selectedBy hint)).bind channelEntry :=
  List.find?_filterMap

/-! ### Resolution over a candidate list -/

/-- Resolution takes the first candidate that passes the test. Where none does, the error is
`TimerNotFoundError` only for a hint on a list with a channel entry (R103 to R108). -/
theorem resolveIn_some (es : List CapEntry) (hint : Bytes) :
    resolveIn (some es) hint =
      ((es.find? (CapEntry.selectedBy hint)).bind channelEntry).elim
        (.error (if hint = [] ∨ es.filterMap channelEntry = [] then .unsupportedPin
          else .timerNotFound))
        (fun x => .ok x.result) := by
  rw [← find?_channelEntries]
  unfold resolveIn
  by_cases hchannel : es.filterMap channelEntry = []
  · simp [hchannel]
  by_cases hhint : hint = []
  · rw [hhint, ChannelEntry.selectedBy_nil]
    cases hfind : (es.filterMap channelEntry).find? fun x => !x.result.inverted <;>
      simp [hchannel, hfind]
  · rw [ChannelEntry.selectedBy_hint hhint]
    cases hfind : (es.filterMap channelEntry).find? fun x => startsWith x.name hint <;>
      simp [hchannel, hhint, hfind]

theorem resolveIn_of_first_selected {before after : List CapEntry} {e : CapEntry} {hint : Bytes}
    {x : ChannelEntry} (hx : channelEntry e = some x) (he : CapEntry.selectedBy hint e = true)
    (hbefore : ∀ y ∈ before, ¬ CapEntry.selectedBy hint y = true) :
    resolveIn (some (before ++ e :: after)) hint = .ok x.result := by
  have hfind : (before ++ e :: after).find? (CapEntry.selectedBy hint) = some e := by
    rw [List.find?_append, List.find?_eq_none.mpr hbefore, Option.none_or,
      List.find?_cons_of_pos he]
  simp [resolveIn_some, hfind, hx]

theorem resolveIn_of_none_selected {es : List CapEntry} {hint : Bytes}
    (h : ∀ e ∈ es, ¬ CapEntry.selectedBy hint e = true) :
    resolveIn (some es) hint = .error
      (if hint = [] ∨ es.filterMap channelEntry = [] then .unsupportedPin else .timerNotFound) := by
  simp [resolveIn_some, List.find?_eq_none.mpr h]

theorem resolve_of_absent {cap : List CapPin} {pin : Bytes} (hint : Bytes)
    (h : ∀ row ∈ cap, row.pin ≠ pin) : resolve cap pin hint = .error .unsupportedPin := by
  have habsent : capLookup cap pin = none := by
    simpa [capLookup, List.find?_eq_none] using h
  rw [resolve, habsent, resolveIn]

/-! ### What resolution selects, and its errors -/

/-- Settles O19: the split of the list at the entry is where the first selected one stands. -/
theorem hintSelectsFirstMatch : Obligations.HintSelectsFirstMatch := by
  intro rows more before after e pin hint n c inv hrows hhint hclass hprefix hbefore
  rw [resolve_of_row hrows]
  have hchannel : classify e.name ≠ .other := by
    rw [hclass]
    cases inv <;> simp
  exact resolveIn_of_first_selected (channelEntry_eq_some_iff.mpr ⟨n, c, inv, hclass, rfl⟩)
    ((CapEntry.selectedBy_hint_iff hhint).mpr ⟨hchannel, hprefix⟩)
    fun y hy hsel =>
      have ⟨hclassified, hpre⟩ := (CapEntry.selectedBy_hint_iff hhint).mp hsel
      hbefore y hy hclassified hpre

/-- Settles O20: with the empty hint the selected candidates are those with an OC name. -/
theorem noHintSelectsFirstUsable : Obligations.NoHintSelectsFirstUsable := by
  intro rows more before after e pin n c hrows hclass hbefore
  rw [resolve_of_row hrows]
  exact resolveIn_of_first_selected (channelEntry_eq_some_iff.mpr ⟨n, c, false, hclass, rfl⟩)
    (CapEntry.selectedBy_nil_iff.mpr ⟨n, c, hclass⟩)
    fun y hy hsel =>
      have ⟨n', c', hoc⟩ := CapEntry.selectedBy_nil_iff.mp hsel
      hbefore y hy n' c' hoc

/-- Settles O21: in each case of a pin in `CAP` no candidate of its list is selected. -/
theorem resolutionErrors : Obligations.ResolutionErrors := by
  refine ⟨fun cap pin hint h => resolve_of_absent hint h, fun rows more es pin hrows =>
    ⟨fun hint hother => ?_, fun hint hsome hhint hnone => ?_, fun hnone => ?_⟩⟩
  · rw [resolve_of_row hrows,
      resolveIn_of_none_selected fun e he => CapEntry.not_selectedBy_of_other (hother e he),
      if_pos (.inr (channelEntries_eq_nil_iff.mpr hother))]
  · obtain ⟨x, hx, hxchannel⟩ := hsome
    have hchannel : es.filterMap channelEntry ≠ [] := fun hnil =>
      hxchannel (channelEntries_eq_nil_iff.mp hnil x hx)
    have hunselected : ∀ e ∈ es, ¬ CapEntry.selectedBy hint e = true := fun e he hsel =>
      have ⟨hclassified, hpre⟩ := (CapEntry.selectedBy_hint_iff hhint).mp hsel
      hnone e he hclassified hpre
    rw [resolve_of_row hrows, resolveIn_of_none_selected hunselected,
      if_neg (not_or.mpr ⟨hhint, hchannel⟩)]
  · have hunselected : ∀ e ∈ es, ¬ CapEntry.selectedBy [] e = true := fun e he hsel =>
      have ⟨n, c, hoc⟩ := CapEntry.selectedBy_nil_iff.mp hsel
      hnone e he n c hoc
    rw [resolve_of_row hrows, resolveIn_of_none_selected hunselected, if_pos (.inl rfl)]

/-! ### The command `RESOLVE` -/

/-- A `RESOLVE` that resolution gives an error writes its code to `STATUS` only (R109, R215). -/
theorem execResolve_of_error {s : State} {pin hint : Bytes} {e : ErrorKind}
    (hpin : strOf s.argPin = some pin) (hhint : strOf s.argHint = some hint) (hne : pin ≠ [])
    (h : resolve s.board.cap pin hint = .error e) : execResolve s = .next (s.raise e) :=
  execResolve_eq_next_iff.mpr ⟨pin, hint, hpin, hhint, hne, .inl ⟨e, h, rfl⟩⟩

theorem execResolve_of_ok {s : State} {pin hint : Bytes} {r : Resolved}
    (hpin : strOf s.argPin = some pin) (hhint : strOf s.argHint = some hint) (hne : pin ≠ [])
    (h : resolve s.board.cap pin hint = .ok r) :
    execResolve s = .next (s.setResolved r).succeed :=
  execResolve_eq_next_iff.mpr ⟨pin, hint, hpin, hhint, hne, .inr ⟨r, h, rfl⟩⟩

theorem execResolve_of_empty_pin {s : State} {hint : Bytes} (hpin : strOf s.argPin = some [])
    (hhint : strOf s.argHint = some hint) : execResolve s = .refused .emptyPin := by
  rw [execResolve, withStrings_of_some hpin hhint, resolveCmd, if_pos rfl]

/-- Settles O22: a clause per outcome of the operands and of resolution. -/
theorem resolveCommand : Obligations.ResolveCommand := by
  refine ⟨rfl, fun s => ⟨fun h => ⟨_, withStrings_of_malformed _ h⟩, fun pin hint hpin hhint =>
    ⟨?_, ?_, ?_, fun e h => resolve_error h, ?_⟩⟩⟩
  · rintro rfl
    exact execResolve_of_empty_pin hpin hhint
  · exact execResolve_of_error hpin hhint
  · exact execResolve_of_error hpin hhint
  · exact fun r => execResolve_of_ok hpin hhint

end Sys2Proof.Machine
end

section
/-! PROOFS. The life of a channel: the `CONSTRUCT` that succeeds (O23), what it is refused for (O25),
`DESTROY` (O27), and that the three commands in a row come back to the same state (O28). -/

namespace Sys2Proof.Machine

/-! ### A `CONSTRUCT` that succeeds -/

/-- A resolved pair that the claim test lets through becomes a channel (R120, R123, R127). -/
theorem construction_of_free {c : Config} {pin hint : Bytes} {length freq : Rat} {s : State}
    {r : Resolved} (i : SlotNum) (h : resolve s.board.cap pin hint = .ok r)
    (hclaim : s.conflict r.timerIndex r.channelIndex
      (realisedPeriod c r.timerIndex length freq) = false) :
    construction c i pin hint length freq s =
      ((s.setPinAf pin r.altFunction).setSlot i
        (some (newChannel pin r (realisedPeriod c r.timerIndex length freq)))).succeed := by
  simp [construction, h, hclaim]

/-- Settles O23: the statement's period is `realisedPeriod`, and its premise on the timer is the
claim test. -/
theorem constructMakesTheChannel : Obligations.ConstructMakesTheChannel := by
  intro s slot pin hint r hempty hpin hhint hne hlength hfreq hfree hr freq period hshared
  have hclaim : s.conflict r.timerIndex r.channelIndex period = false :=
    State.conflict_eq_false_iff.mpr hshared
  exact execConstruct_eq_next_iff.mpr ⟨pin, hint, hpin, hhint, State.view_empty_iff.mpr hempty,
    hne, hlength, hfreq, State.pinBound_eq_false_iff.mpr hfree,
    (construction_of_free slot hr hclaim).symm⟩

/-! ### What `CONSTRUCT` is refused for -/

/-- `CONSTRUCT` never stops with a fault. -/
theorem constructCmd_next_or_refused (c : Config) (i : SlotNum) (pin hint : Bytes)
    (length freq : Rat) (s : State) :
    (∃ t, constructCmd c i pin hint length freq s = .next t) ∨
      ∃ e, constructCmd c i pin hint length freq s = .refused e := by
  unfold constructCmd
  split
  · exact .inr ⟨_, rfl⟩
  · exact .inr ⟨_, rfl⟩
  · split_ifs
    · exact .inr ⟨_, rfl⟩
    · exact .inr ⟨_, rfl⟩
    · exact .inr ⟨_, rfl⟩
    · exact .inr ⟨_, rfl⟩
    · exact .inl ⟨_, rfl⟩

/-- Settles O25: a `CONSTRUCT` that is not refused completes, and then R128 shut nothing out. -/
theorem constructRefusals : Obligations.ConstructRefusals := by
  intro s slot pin hint hpin hhint hshut
  have hexec : exec (.construct slot) s =
      constructCmd Config.platform slot pin hint (fix s.argLength) (fix s.argFreq) s :=
    withStrings_of_some hpin hhint
  rw [hexec]
  refine (constructCmd_next_or_refused ..).resolve_left fun ⟨t, h⟩ => ?_
  obtain ⟨hempty, hne, hlength, hfreq, hfree, -⟩ := constructCmd_eq_next_iff.mp h
  rcases hshut with ⟨ch, hlive⟩ | hnil | hneg | hneg | ⟨j, ch, hlive, hbound⟩
  · simp [State.channelAt_eq_of_view hempty] at hlive
  · exact hne hnil
  · exact hlength.not_gt hneg
  · exact hfreq.not_gt hneg
  · exact State.pinBound_eq_false_iff.mp hfree j ch hlive hbound

/-! ### `DESTROY` -/

theorem execDestroy_of_live {i : SlotNum} {s : State} {ch : Channel}
    (h : s.channelAt i.toNat = some ch) : execDestroy i s = .next (s.setSlot i none).succeed :=
  execDestroy_eq_next_iff.mpr ⟨ch, h, rfl⟩

theorem execDestroy_of_empty {i : SlotNum} {s : State} (h : s.view i = .empty) :
    execDestroy i s = .refused .slotEmpty := by
  simp [execDestroy, destroyCmd, onLive, h]

/-- Under the invariant no other channel has the pair, so `DESTROY` releases the claim (R29, R129). -/
theorem execDestroy_releases_claim {i : SlotNum} {s t : State} {ch : Channel} (hs : s.Inv)
    (hc : s.channelAt i.toNat = some ch) (h : execDestroy i s = .next t) :
    t.claimed ch.timerId ch.channelId = false := by
  obtain ⟨hself, hother⟩ := execDestroy_channelAt h
  refine State.claimed_eq_false_iff.mpr fun j b hb hpair => ?_
  have hj : j ≠ i.toNat := by
    rintro rfl
    simp [hself] at hb
  rw [hother j hj] at hb
  exact (hs.compatible j i.toNat b ch hj hb hc).pair hpair

/-- Settles O27: the ramp and the compare output go with the channel record. -/
theorem destroyReleasesTheChannel : Obligations.DestroyReleasesTheChannel := by
  refine fun s slot => ⟨fun ch hc => execDestroy_of_live hc,
    fun h => execDestroy_of_empty (State.view_empty_iff.mpr h), fun ch t hs hc h => ?_, rfl⟩
  obtain ⟨hself, -⟩ := execDestroy_channelAt h
  exact ⟨execDestroy_releases_claim hs hc h, by simp [State.ramping, hself],
    by simp [State.compareOut, hself]⟩

/-! ### `CONSTRUCT`, `DESTROY` and the same `CONSTRUCT` again -/

/-- Writing the same alternate function of a pin twice is writing it once. -/
theorem pinAfSet_idem (p : Bytes) (a : Int) (m : List (Bytes × Int)) :
    pinAfSet p a (pinAfSet p a m) = pinAfSet p a m := by
  induction m with
  | nil => simp [pinAfSet]
  | cons entry rest ih =>
    obtain ⟨q, b⟩ := entry
    by_cases heq : p = q
    · simp [pinAfSet, heq]
    · by_cases hlt : bytesLt p q = true
      · simp [pinAfSet, heq, hlt]
      · simp [pinAfSet, heq, hlt, ih]

/-- A pin that is configured already stays as it is. -/
theorem State.setPinAf_succeed_setPinAf (s : State) (p : Bytes) (a : Int) :
    (s.setPinAf p a).succeed.setPinAf p a = (s.setPinAf p a).succeed := by
  simp [State.setPinAf, State.succeed, State.setStatus, pinAfSet_idem]

/-- Emptying a slot undoes a write of it where it was `Empty` before. -/
theorem State.setSlot_setSlot_none_of_empty {s : State} {i : SlotNum} (x : Option Channel)
    (h : s.view i = .empty) : (s.setSlot i x).setSlot i none = s := by
  obtain ⟨hlt, hnone⟩ := List.getElem?_eq_some_iff.mp (State.view_empty_iff.mp h)
  have hslots : (s.slots.set i.toNat x).set i.toNat none = s.slots := by
    rw [List.set_set, ← hnone, List.set_getElem_self]
  simp [State.setSlot, hslots]

/-- What `DESTROY` leaves of a success path on an `Empty` slot: the pin's configuration (R129). -/
theorem execDestroy_setSlot_succeed {s : State} {i : SlotNum} (ch : Channel)
    (h : s.view i = .empty) :
    execDestroy i (s.setSlot i (some ch)).succeed = .next s.succeed := by
  obtain ⟨hlt, -⟩ := List.getElem?_eq_some_iff.mp (State.view_empty_iff.mp h)
  have hlive : (s.setSlot i (some ch)).succeed.channelAt i.toNat = some ch :=
    State.channelAt_setSlot_self _ hlt
  rw [execDestroy_of_live hlive]
  change Host.Outcome.next ((s.setSlot i (some ch)).setSlot i none).succeed = _
  rw [State.setSlot_setSlot_none_of_empty _ h]

theorem ErrorKind.code_ne_zero (e : ErrorKind) : e.code ≠ 0 := by
  cases e <;> decide

/-- A `CONSTRUCT` that leaves `STATUS` = 0 has resolved its pin and passed the claim test (R126). -/
theorem construction_of_status_zero {c : Config} {i : SlotNum} {pin hint : Bytes}
    {length freq : Rat} {s : State} (h : (construction c i pin hint length freq s).status = 0) :
    ∃ r, resolve s.board.cap pin hint = .ok r ∧
      s.conflict r.timerIndex r.channelIndex (realisedPeriod c r.timerIndex length freq) = false := by
  rcases construction_cases c i pin hint length freq s with ⟨e, heq, -⟩ | ⟨r, hr, hclaim, -⟩
  · rw [heq, State.raise_status] at h
    exact absurd h e.code_ne_zero
  · exact ⟨r, hr, hclaim⟩

/-- Settles O28: between the two the state differs from the first one in `pin_af` and `STATUS` only,
which neither resolution nor the claim test reads. -/
theorem constructDestroyConstruct : Obligations.ConstructDestroyConstruct := by
  intro s t slot h hstatus
  obtain ⟨pin, hint, hpin, hhint, hempty, hne, hlength, hfreq, hfree, rfl⟩ :=
    execConstruct_eq_next_iff.mp h
  obtain ⟨r, hr, hclaim⟩ := construction_of_status_zero hstatus
  rw [construction_of_free slot hr hclaim]
  have hagain := construction_of_free (s := (s.setPinAf pin r.altFunction).succeed) slot hr hclaim
  rw [State.setPinAf_succeed_setPinAf] at hagain
  exact ⟨(s.setPinAf pin r.altFunction).succeed, execDestroy_setSlot_succeed _ hempty,
    execConstruct_eq_next_iff.mpr
      ⟨pin, hint, hpin, hhint, hempty, hne, hlength, hfreq, hfree, hagain.symm⟩⟩

end Sys2Proof.Machine
end

section
/-! PROOFS. Duty cycle: what `DUTY_SET` sets (O29), the whole percent that `DUTY_GET` returns (O30),
and that it reads back the percentage that was set, rounded (O31). -/

namespace Sys2Proof.Machine

/-! ### What is refused -/

/-- A command that needs a live channel is refused on an `Empty` slot (R226). -/
theorem onLive_of_empty {i : SlotNum} {s : State} (k : Channel → Result)
    (h : s.slots[i.toNat]? = some none) : onLive i s k = .refused .slotEmpty := by
  simp [onLive, State.view_empty_iff.mpr h]

/-! ### `DUTY_SET` -/

theorem execDutySet_of_live {i : SlotNum} {s : State} {ch : Channel}
    (h : s.channelAt i.toNat = some ch) :
    execDutySet i s = .next (s.setSlot i (some (ch.setDuty (fix s.argValue)))).succeed :=
  execDutySet_eq_next_iff.mpr ⟨ch, h, rfl⟩

/-- Settles O29: the statement writes out `fix`, `clamp` and `Channel.setDuty`. -/
theorem dutySetCommand : Obligations.DutySetCommand := fun _ _ =>
  ⟨fun _ hc => execDutySet_of_live hc, onLive_of_empty _, rfl⟩

/-! ### A percentage in `RESULT` -/

theorem roundQ_le {c : Config} {n : Int} {x : Rat} (h : x ≤ n) : roundQ c x ≤ n := by
  have hnear := (abs_le.mp (roundQ_near c x)).2
  have hlt : (roundQ c x : Rat) < ((n + 1 : Int) : Rat) := by
    push_cast
    linarith
  exact Int.lt_add_one_iff.mp (Int.cast_lt.mp hlt)

/-- The integer nearest to a percentage is one from 0 to 100. -/
theorem roundQ_percent {c : Config} {x : Rat} (h0 : 0 ≤ x) (h100 : x ≤ 100) :
    0 ≤ roundQ c x ∧ roundQ c x ≤ 100 :=
  ⟨le_roundQ (by exact_mod_cast h0), roundQ_le (by exact_mod_cast h100)⟩

/-- The pattern of an integer from -2^47 on and below 2^47. -/
theorem unfix_intCast {n : Int} (hlo : -2 ^ 47 ≤ n) (hhi : n < 2 ^ 47) :
    unfix n = some (BitVec.ofInt 64 (n * 65536)) := by
  rw [unfix_eq_some_iff, BitVec.toInt_ofInt_eq_self (by decide) (by omega) (by omega)]
  push_cast
  rfl

/-! ### `DUTY_GET` -/

/-- A width within the period is 0 to 100 percent of it (R26). -/
theorem Channel.Sound.percent_mem {ch : Channel} (h : ch.Sound) :
    0 ≤ 100 * ch.cur / ch.periodUs ∧ 100 * ch.cur / ch.periodUs ≤ 100 := by
  have hcur := h.cur_nonneg
  have hle := h.cur_le
  have hperiod := h.period_pos
  exact ⟨by positivity, (div_le_iff₀ hperiod).mpr (by linarith)⟩

/-- `DUTY_GET` of a whole percent that is in range (R141, R77). -/
theorem execDutyGet_of_percent {i : SlotNum} {s : State} {ch : Channel}
    (hc : s.channelAt i.toNat = some ch)
    (hduty : 0 ≤ ch.duty Config.platform ∧ ch.duty Config.platform ≤ 100) :
    execDutyGet i s = .next { s with
      result := BitVec.ofInt 64 (ch.duty Config.platform * 65536), resultDefined := true,
      status := 0 } := by
  obtain ⟨h0, h100⟩ := hduty
  have hpattern := unfix_intCast (n := ch.duty Config.platform) (by omega) (by omega)
  refine execDutyGet_eq_next_iff.mpr ⟨ch, hc, ?_⟩
  rw [State.returnInt_of_some _ _ hpattern]
  rfl

/-- Settles O30. -/
theorem dutyGetCommand : Obligations.DutyGetCommand := by
  refine fun s slot => ⟨fun ch hc hsound => ?_, onLive_of_empty _, rfl⟩
  obtain ⟨hlo, hhi⟩ := hsound.percent_mem
  have hduty : 0 ≤ ch.duty Config.platform ∧ ch.duty Config.platform ≤ 100 :=
    roundQ_percent hlo hhi
  exact ⟨ch.duty Config.platform, roundQ_near _ _, hduty.1, hduty.2,
    execDutyGet_of_percent hc hduty⟩

/-! ### `DUTY_GET` after `DUTY_SET` -/

/-- The width that `DUTY_SET` sets is exact, so its percentage is the one that was set (R143). -/
theorem Channel.duty_setDuty {ch : Channel} (c : Config) (p : Rat) (h : 0 < ch.periodUs) :
    (ch.setDuty p).duty c = roundQ c (clamp p 0 100) := by
  have hexact : 100 * (clamp p 0 100 * ch.periodUs / 100) / ch.periodUs = clamp p 0 100 := by
    field_simp
  exact congrArg (roundQ c) hexact

/-- A slot that receives an `Idle` channel has no tick enabled. -/
theorem State.ramping_of_idle {s : State} {i : Nat} {ch : Channel} (hc : s.channelAt i = some ch)
    (hidle : ch.ramp = none) : s.ramping i = false := by
  simp [State.ramping, hc, hidle]

/-- Settles O31: after the `DUTY_SET` the slot holds the channel with the new duty, which is what
`DUTY_GET` reads. -/
theorem dutyReadsBack : Obligations.DutyReadsBack := by
  intro s slot ch hc hperiod
  have hback : (s.setSlot slot (some (ch.setDuty (fix s.argValue)))).succeed.channelAt slot.toNat =
      some (ch.setDuty (fix s.argValue)) :=
    State.channelAt_setSlot_self _ (State.lt_length_of_channelAt hc)
  obtain ⟨hlo, hhi⟩ := clamp_mem (x := fix s.argValue) (lo := 0) (hi := 100) (by norm_num)
  have hround := Channel.duty_setDuty Config.platform (fix s.argValue) hperiod
  have hget := execDutyGet_of_percent hback (hround ▸ roundQ_percent hlo hhi)
  rw [hround] at hget
  exact ⟨_, _, roundQ Config.platform (clamp (fix s.argValue) 0 100), execDutySet_of_live hc,
    State.ramping_of_idle hback rfl, hget, rfl, roundQ_near _ _, rfl⟩

end Sys2Proof.Machine
end

section
/-! PROOFS. Pulse width: what `PW_GET` returns (O32), what `PW_SET` writes at once (O34, O41), what it
stores for a timed write (O35, O42) and what it is refused for (O36). -/

namespace Sys2Proof.Machine

/-! ### Operands -/

/-- `fix` keeps the sign of its pattern (R74), which is all that `PW_SET` asks of `ARG_RAMP`. -/
theorem fix_pos_iff {v : BitVec 64} : 0 < fix v ↔ 0 < v.toInt := by
  rw [fix, div_pos_iff_of_pos_right (by norm_num), Int.cast_pos]

theorem fix_neg_iff {v : BitVec 64} : fix v < 0 ↔ v.toInt < 0 := by
  rw [fix, div_lt_iff₀ (by norm_num), zero_mul, Int.cast_lt_zero]

theorem fix_zero_pattern : fix 0 = 0 := by
  simp [fix]

/-! ### `PW_GET` -/

/-- Settles O32: the nearest integer to a width in `[0, period_us]` lies between 0 and the ceiling of
the period, and below 2^47 it has a pattern. -/
theorem pwGetCommand : Obligations.PwGetCommand := by
  refine fun s slot => ⟨fun ch hc hsound hbound => ?_, onLive_of_empty _⟩
  have hnear := roundQ_near Config.platform ch.cur
  have hlo : 0 ≤ roundQ Config.platform ch.cur := le_roundQ (by exact_mod_cast hsound.cur_nonneg)
  have hhi : roundQ Config.platform ch.cur ≤ ⌈ch.periodUs⌉ :=
    roundQ_le (hsound.cur_le.trans (Int.le_ceil _))
  have hfits : roundQ Config.platform ch.cur < 2 ^ 47 := by
    have hlt : (roundQ Config.platform ch.cur : Rat) < 2 ^ 47 := by
      linarith [(abs_le.mp hnear).2]
    exact_mod_cast hlt
  refine ⟨_, hnear, hlo, hhi, execPwGet_eq_next_iff.mpr ⟨ch, hc, ?_⟩⟩
  rw [State.returnInt_of_some _ _ (unfix_intCast (by omega) hfits)]
  rfl

/-! ### `PW_SET` -/

/-- What a command on a live slot writes there is read back after it. -/
theorem State.channelAt_setSlot_succeed {s : State} {i : SlotNum} {ch : Channel}
    (hc : s.channelAt i.toNat = some ch) (x : Option Channel) :
    (s.setSlot i x).succeed.channelAt i.toNat = x :=
  State.channelAt_setSlot_self x (State.lt_length_of_channelAt hc)

theorem execPwSet_of_zero {i : SlotNum} {s : State} {ch : Channel}
    (hc : s.channelAt i.toNat = some ch) (hr : s.argRamp = 0) :
    execPwSet i s = .next (s.setSlot i (some (ch.setWidth (fix s.argValue)))).succeed :=
  execPwSet_eq_next_iff.mpr ⟨ch, hc, .inl ⟨hr ▸ fix_zero_pattern, rfl⟩⟩

theorem execPwSet_of_pos {i : SlotNum} {s : State} {ch : Channel}
    (hc : s.channelAt i.toNat = some ch) (hr : 0 < s.argRamp.toInt) :
    execPwSet i s =
      .next (s.setSlot i (some (ch.startRamp (fix s.argValue) (fix s.argRamp)))).succeed :=
  execPwSet_eq_next_iff.mpr ⟨ch, hc, .inr ⟨fix_pos_iff.mpr hr, rfl⟩⟩

/-- Settles O34: the statement writes out `fix`, `clamp` and `Channel.setWidth`. -/
theorem pwSetImmediate : Obligations.PwSetImmediate := fun _ _ hr =>
  ⟨fun _ hc => execPwSet_of_zero hc hr, onLive_of_empty _, rfl⟩

/-- Settles O35: the statement writes out `fix`, `clamp` and `Channel.startRamp`. -/
theorem pwSetTimed : Obligations.PwSetTimed := fun _ _ hr =>
  ⟨fun _ hc => execPwSet_of_pos hc hr, onLive_of_empty _, rfl⟩

/-- Settles O36. -/
theorem pwSetNegativeRampIsRefused : Obligations.PwSetNegativeRampIsRefused := fun _ _ _ hc hr =>
  (onLive_of_live hc).trans (if_pos (fix_neg_iff.mpr hr))

/-! ### An immediate write made twice -/

/-- The clamp reads the period alone, which a write of the width keeps. -/
theorem Channel.setWidth_setWidth (w : Rat) (ch : Channel) :
    (ch.setWidth w).setWidth w = ch.setWidth w := rfl

theorem State.setSlot_succeed_setSlot_succeed (s : State) (i : SlotNum) (x y : Option Channel) :
    ((s.setSlot i x).succeed.setSlot i y).succeed = (s.setSlot i y).succeed := by
  simp [State.setSlot, State.succeed, State.setStatus]

/-- Settles O41: the second write finds the channel that the first one left. -/
theorem immediateWriteIsIdempotent : Obligations.ImmediateWriteIsIdempotent := by
  intro s t slot hr h
  obtain ⟨ch, hc, -⟩ := execPwSet_eq_next_iff.mp h
  obtain rfl := Host.Outcome.next.inj ((execPwSet_of_zero hc hr).symm.trans h)
  have hback := State.channelAt_setSlot_succeed hc (some (ch.setWidth (fix s.argValue)))
  refine (execPwSet_of_zero hback hr).trans (congrArg Host.Outcome.next ?_)
  exact State.setSlot_succeed_setSlot_succeed s slot _ _

/-! ### A timed write moves nothing -/

/-- A channel replaced by one of the same width leaves every compare output as it was (R33). -/
theorem State.compareOut_setSlot {s : State} {i : SlotNum} {ch ch' : Channel}
    (hc : s.channelAt i.toNat = some ch) (hcur : ch'.cur = ch.cur) (j : Nat) :
    (s.setSlot i (some ch')).compareOut j = s.compareOut j := by
  unfold State.compareOut
  by_cases hj : j = i.toNat
  · subst hj
    rw [State.channelAt_setSlot_self _ (State.lt_length_of_channelAt hc), hc, Option.map_some,
      Option.map_some, hcur]
  · rw [State.channelAt_setSlot_ne _ hj]

/-- Settles O42. -/
theorem timedWriteMovesNothing : Obligations.TimedWriteMovesNothing := by
  intro s t slot hr h
  obtain ⟨ch, hc, -⟩ := execPwSet_eq_next_iff.mp h
  obtain rfl := Host.Outcome.next.inj ((execPwSet_of_pos hc hr).symm.trans h)
  refine ⟨State.compareOut_setSlot hc rfl, ?_⟩
  rw [State.callbackEnable, State.channelAt_setSlot_succeed hc]
  rfl

end Sys2Proof.Machine
end

section
/-! PROOFS. Ticks: what one does to its slot (O37, O39), that none does anything after an immediate
write (O40), and how many of them a ramp takes (O38). -/

namespace Sys2Proof.Machine

/-! ### One tick -/

theorem execTick_of_ramp {i : SlotNum} {s : State} {ch : Channel} {r : Ramp}
    (hc : s.channelAt i.toNat = some ch) (hr : ch.ramp = some r) :
    execTick i s = .next (s.setSlot i (some (ch.tick r))) := by
  simp [execTick, State.view_live_iff.mpr hc, hr]

theorem execTick_of_not_ramping {i : SlotNum} {s : State} (h : s.ramping i.toNat = false) :
    execTick i s = .next s := by
  rcases execTick_eq_next i s with ⟨ch, r, hc, hr, -⟩ | ⟨-, heq⟩
  · simp [State.ramping, hc, hr] at h
  · exact heq

/-- The channel at rest at a width. -/
def Channel.restAt (ch : Channel) (w : Rat) : Channel := { ch with cur := w, ramp := none }

theorem Channel.tick_of_far {ch : Channel} {r : Ramp} (h : |r.step| < |ch.cur - r.target|) :
    ch.tick r = { ch with cur := ch.cur + r.step } := by
  rw [Channel.tick, absQ_eq_abs, absQ_eq_abs, if_pos h]

theorem Channel.tick_of_near {ch : Channel} {r : Ramp} (h : |ch.cur - r.target| ≤ |r.step|) :
    ch.tick r = ch.restAt r.target := by
  rw [Channel.tick, absQ_eq_abs, absQ_eq_abs, if_neg h.not_gt, Channel.restAt]

/-- Settles O37. -/
theorem tickEvent : Obligations.TickEvent := by
  refine fun s slot => ⟨fun ch r hc hr hfar => ?_, fun ch r hc hr hnear => ?_,
    execTick_of_not_ramping⟩
  · exact (execTick_of_ramp hc hr).trans (by rw [Channel.tick_of_far hfar]; rfl)
  · exact (execTick_of_ramp hc hr).trans (by rw [Channel.tick_of_near hnear]; rfl)

/-- Settles O39: the step is shorter than the distance and leads toward the target. -/
theorem rampIsMonotone : Obligations.RampIsMonotone := by
  intro s slot ch r hc hr hfits hfar
  refine ⟨_, ch.tick r, execTick_of_ramp hc hr,
    State.channelAt_setSlot_self _ (State.lt_length_of_channelAt hc), ?_⟩
  rw [Channel.tick_of_far hfar]
  dsimp only
  rcases hfits.step_short_of_target hfar with ⟨hstep, hshort⟩ | ⟨hstep, hshort⟩
  · have hbefore : ch.cur - r.target < 0 := by linarith
    have hafter : ch.cur + r.step - r.target < 0 := by linarith
    rw [abs_of_neg hbefore, abs_of_neg hafter, abs_of_nonneg hstep]
    exact ⟨by ring, mul_pos_of_neg_of_neg hbefore hafter⟩
  · have hbefore : 0 < ch.cur - r.target := by linarith
    have hafter : 0 < ch.cur + r.step - r.target := by linarith
    rw [abs_of_pos hbefore, abs_of_pos hafter, abs_of_nonpos hstep]
    exact ⟨by ring, mul_pos hbefore hafter⟩

/-! ### Ticks of one slot in a row -/

theorem ticks_zero (i : SlotNum) (s : State) : ticks i 0 s = .next s := rfl

theorem ticks_succ (i : SlotNum) (k : Nat) (s : State) :
    ticks i (k + 1) s = andThen (execTick i s) (ticks i k) := rfl

theorem ticks_of_not_ramping {i : SlotNum} {s : State} (h : s.ramping i.toNat = false) (k : Nat) :
    ticks i k s = .next s := by
  induction k with
  | zero => exact ticks_zero i s
  | succ k ih => rw [ticks_succ, execTick_of_not_ramping h, andThen_next, ih]

/-- Settles O40. -/
theorem immediateWriteCancels : Obligations.ImmediateWriteCancels := by
  intro s slot ch hc hr
  have hback := State.channelAt_setSlot_succeed hc (some (ch.setWidth (fix s.argValue)))
  have hidle := State.ramping_of_idle hback rfl
  exact ⟨_, execPwSet_of_zero hc hr, hidle, ticks_of_not_ramping hidle⟩

/-- What a strobe of its slot leaves of a live channel (R80, R156). -/
def Channel.strobe (ch : Channel) : Channel :=
  match ch.ramp with
  | none => ch
  | some r => ch.tick r

theorem Channel.strobe_of_idle {ch : Channel} (h : ch.ramp = none) : ch.strobe = ch := by
  simp [Channel.strobe, h]

theorem Channel.strobe_of_ramp {ch : Channel} {r : Ramp} (h : ch.ramp = some r) :
    ch.strobe = ch.tick r := by
  simp [Channel.strobe, h]

/-- A strobe of a live channel's slot completes. -/
theorem execTick_of_live {i : SlotNum} {s : State} {ch : Channel}
    (hc : s.channelAt i.toNat = some ch) :
    ∃ t, execTick i s = .next t ∧ t.channelAt i.toNat = some ch.strobe := by
  cases hr : ch.ramp with
  | none =>
    rw [Channel.strobe_of_idle hr]
    exact ⟨s, execTick_of_not_ramping (State.ramping_of_idle hc hr), hc⟩
  | some r =>
    rw [Channel.strobe_of_ramp hr]
    exact ⟨_, execTick_of_ramp hc hr,
      State.channelAt_setSlot_self _ (State.lt_length_of_channelAt hc)⟩

/-- Ticks of a live channel's slot are strobes of that channel. -/
theorem ticks_of_live {i : SlotNum} (k : Nat) {s : State} {ch : Channel}
    (hc : s.channelAt i.toNat = some ch) :
    ∃ t, ticks i k s = .next t ∧ t.channelAt i.toNat = some (Channel.strobe^[k] ch) := by
  induction k generalizing s ch with
  | zero => exact ⟨s, ticks_zero i s, hc⟩
  | succ k ih =>
    obtain ⟨s', hexec, hc'⟩ := execTick_of_live hc
    rw [ticks_succ, hexec, andThen_next, Function.iterate_succ_apply]
    exact ih hc'

/-! ### How far a ramp is from its target -/

/-- The target of a channel's ramp is `n` of its steps ahead, a rational number (R154). -/
structure Ramp.Ahead (ch : Channel) (r : Ramp) (n : Rat) : Prop where
  nonneg : 0 ≤ n
  target_eq : r.target = ch.cur + n * r.step

theorem Ramp.Ahead.distance {ch : Channel} {r : Ramp} {n : Rat} (h : r.Ahead ch n) :
    |ch.cur - r.target| = n * |r.step| := by
  have hdiff : ch.cur - r.target = -(n * r.step) := by
    rw [h.target_eq]
    ring
  rw [hdiff, abs_neg, abs_mul, abs_of_nonneg h.nonneg]

/-- A tick advances exactly when more than one step is left (R156). -/
theorem Ramp.Ahead.far_iff {ch : Channel} {r : Ramp} {n : Rat} (h : r.Ahead ch n) :
    |r.step| < |ch.cur - r.target| ↔ r.step ≠ 0 ∧ 1 < n := by
  rw [h.distance]
  by_cases hstep : r.step = 0
  · simp [hstep]
  · simp [hstep, lt_mul_iff_one_lt_left]

/-- An advancing tick leaves one step less. -/
theorem Ramp.Ahead.advance {ch : Channel} {r : Ramp} {n : Rat} (h : r.Ahead ch n) (hn : 1 ≤ n) :
    r.Ahead { ch with cur := ch.cur + r.step } (n - 1) where
  nonneg := by linarith
  target_eq := by
    rw [h.target_eq]
    ring

/-- A timed write puts the target as many steps ahead as there are ticks in its time (R154, R155). -/
theorem Channel.ahead_startRamp {ch : Channel} (w : Rat) {r : Rat} (hr : 0 < r)
    (hperiod : 0 < ch.periodUs) :
    Ramp.Ahead (ch.startRamp w r) ⟨ch.clampWidth w, (ch.clampWidth w - ch.cur) / ch.ticksIn r⟩
      (ch.ticksIn r) := by
  have hticks : 0 < ch.ticksIn r := div_pos (by linarith) hperiod
  refine ⟨hticks.le, ?_⟩
  change ch.clampWidth w = ch.cur + ch.ticksIn r * ((ch.clampWidth w - ch.cur) / ch.ticksIn r)
  rw [mul_div_cancel₀ _ hticks.ne']
  ring

/-- While steps are left the width moves by one step a tick (R159). -/
theorem Channel.strobes_advance {r : Ramp} (hstep : r.step ≠ 0) (k : Nat) {ch : Channel} {n : Rat}
    (hr : ch.ramp = some r) (h : r.Ahead ch n) (hk : (k : Rat) < n) :
    Channel.strobe^[k] ch = { ch with cur := ch.cur + k * r.step } := by
  induction k generalizing ch n with
  | zero => simp
  | succ k ih =>
    push_cast at hk
    have hmore : 1 < n := by linarith [Nat.cast_nonneg (α := Rat) k]
    rw [Function.iterate_succ_apply, Channel.strobe_of_ramp hr,
      Channel.tick_of_far (h.far_iff.mpr ⟨hstep, hmore⟩),
      ih (ch := { ch with cur := ch.cur + r.step }) hr (h.advance hmore.le) (by linarith)]
    simp only [Channel.mk.injEq, and_true, true_and]
    push_cast
    ring

theorem Channel.strobes_of_idle {ch : Channel} (h : ch.ramp = none) (k : Nat) :
    Channel.strobe^[k] ch = ch :=
  Function.iterate_fixed (Channel.strobe_of_idle h) k

/-- As many ticks as there are steps left, and at least one, bring the channel to rest at its target
(R159). -/
theorem Channel.strobes_reach (k : Nat) {ch : Channel} {r : Ramp} {n : Rat}
    (hr : ch.ramp = some r) (h : r.Ahead ch n) (hk : n ≤ k + 1) :
    Channel.strobe^[k + 1] ch = ch.restAt r.target := by
  induction k generalizing ch n with
  | zero =>
    have hnear : |ch.cur - r.target| ≤ |r.step| := by
      rw [h.distance]
      exact mul_le_of_le_one_left (abs_nonneg _) (by simpa using hk)
    rw [Function.iterate_one, Channel.strobe_of_ramp hr, Channel.tick_of_near hnear]
  | succ k ih =>
    rw [Function.iterate_succ_apply, Channel.strobe_of_ramp hr]
    by_cases hfar : |r.step| < |ch.cur - r.target|
    · obtain ⟨-, hmore⟩ := h.far_iff.mp hfar
      rw [Channel.tick_of_far hfar]
      push_cast at hk
      exact ih (ch := { ch with cur := ch.cur + r.step }) hr (h.advance hmore.le) (by linarith)
    · rw [Channel.tick_of_near (not_lt.mp hfar)]
      exact Channel.strobes_of_idle rfl _

/-- A ramp without distance is over at the first tick, whatever its step. -/
theorem Ramp.ahead_zero {ch : Channel} {r : Ramp} (h : r.target = ch.cur) : r.Ahead ch 0 :=
  ⟨le_rfl, by rw [h, zero_mul, add_zero]⟩

/-! ### The ramp of a timed write -/

theorem Channel.strobes_startRamp_advance {ch : Channel} {w r : Rat} (hr : 0 < r)
    (hperiod : 0 < ch.periodUs) {k : Nat} (hk : (k : Rat) < ch.ticksIn r)
    (hne : ch.clampWidth w ≠ ch.cur) :
    Channel.strobe^[k] (ch.startRamp w r) = { ch.startRamp w r with
      cur := ch.cur + k * ((ch.clampWidth w - ch.cur) / ch.ticksIn r) } := by
  have hticks : ch.ticksIn r ≠ 0 := ((Nat.cast_nonneg k).trans_lt hk).ne'
  exact Channel.strobes_advance (div_ne_zero (sub_ne_zero.mpr hne) hticks) k rfl
    (ch.ahead_startRamp w hr hperiod) hk

theorem Channel.strobes_startRamp_reach {ch : Channel} {w r : Rat} (hr : 0 < r)
    (hperiod : 0 < ch.periodUs) {k : Nat}
    (hk : ch.ticksIn r ≤ k ∨ (ch.clampWidth w = ch.cur ∧ 1 ≤ k)) :
    Channel.strobe^[k] (ch.startRamp w r) = ch.restAt (ch.clampWidth w) := by
  have hticks : 0 < ch.ticksIn r := div_pos (by linarith) hperiod
  have hpos : 0 < k := by
    rcases hk with hk | ⟨-, hk⟩
    · exact_mod_cast hticks.trans_le hk
    · exact hk
  obtain ⟨j, rfl⟩ := Nat.exists_eq_succ_of_ne_zero hpos.ne'
  rcases hk with hk | ⟨heq, -⟩
  · exact Channel.strobes_reach j rfl (ch.ahead_startRamp w hr hperiod) (by exact_mod_cast hk)
  · exact Channel.strobes_reach j (ch := ch.startRamp w r) rfl (Ramp.ahead_zero heq)
      (by positivity)

/-- Settles O38: the ticks of the slot are strobes of the channel that the write leaves. -/
theorem rampEndsAtItsTick : Obligations.RampEndsAtItsTick := by
  intro s slot ch hc hperiod hramp target n stride
  have hr : 0 < fix s.argRamp := fix_pos_iff.mpr hramp
  have hback := State.channelAt_setSlot_succeed hc
    (some (ch.startRamp (fix s.argValue) (fix s.argRamp)))
  refine ⟨_, execPwSet_of_pos hc hramp, fun k hk hne => ?_, fun k hk => ?_⟩
  · obtain ⟨u, hu, hcu⟩ := ticks_of_live k hback
    rw [Channel.strobes_startRamp_advance hr hperiod hk hne] at hcu
    exact ⟨u, hu, hcu⟩
  · obtain ⟨u, hu, hcu⟩ := ticks_of_live k hback
    rw [Channel.strobes_startRamp_reach hr hperiod hk] at hcu
    exact ⟨u, hu, hcu⟩

end Sys2Proof.Machine
end

section
/-! PROOFS. A ramp that nothing touches completes under fair ticks (O53): what an event that spares a
slot does to its channel, the first strobe in a fair run, and how many strobes a ramp takes. -/

namespace Sys2Proof.Machine

/-! ### Events that spare a slot -/

/-- Which word an event brings to the decoder does not depend on the state. -/
theorem fetchEvent_instr_of_any {e : PortEvent} {s s' : State} {p : PortWord}
    (h : fetchEvent e s = .instr p s') (u : State) : ∃ u', fetchEvent e u = .instr p u' := by
  rcases fetchEvent_instr h with ⟨i, rfl, rfl, -⟩ | ⟨w, rfl, -⟩
  · exact ⟨u, rfl⟩
  · obtain rfl := fetchEvent_command h
    exact ⟨_, fetchEvent_write_cmd w u⟩

theorem fetchEvent_instr_slots {e : PortEvent} {s s' : State} {p : PortWord}
    (h : fetchEvent e s = .instr p s') : s'.slots = s.slots := by
  rcases fetchEvent_instr h with ⟨_, -, -, rfl⟩ | ⟨_, -, rfl⟩
  · rfl
  · rfl

/-- The instructions that may change a live channel are the three commands on its slot that set or
destroy it, and the tick of that slot (R158). -/
theorem exec_channelAt_of_spared {i : Instr} {s t : State} {slot : SlotNum} {ch : Channel}
    (h : exec i s = .next t) (hc : s.channelAt slot.toNat = some ch) (hduty : i ≠ .dutySet slot)
    (hwidth : i ≠ .pwSet slot) (hdestroy : i ≠ .destroy slot) (htick : i ≠ .tick slot) :
    t.channelAt slot.toNat = some ch := by
  rw [← hc]
  obtain ⟨hframe, -⟩ := instructionFrame i s t h
  by_cases hi : slot.toNat ≠ i.slot.toNat ∨ i = .resolve
  · exact hframe _ hi
  · obtain ⟨hslot, hresolve⟩ := not_or.mp hi
    obtain rfl : slot = i.slot := BitVec.eq_of_toNat_eq (not_not.mp hslot)
    cases i with
    | resolve => exact absurd rfl hresolve
    | construct i =>
      obtain ⟨_, _, -, -, hempty, -⟩ := execConstruct_eq_next_iff.mp h
      exact absurd (hc.symm.trans (State.channelAt_eq_of_view hempty)) (Option.some_ne_none ch)
    | destroy i => exact absurd rfl hdestroy
    | dutySet i => exact absurd rfl hduty
    | dutyGet i =>
      obtain ⟨_, -, rfl⟩ := execDutyGet_eq_next_iff.mp h
      exact State.channelAt_congr (by simp) _
    | pwSet i => exact absurd rfl hwidth
    | pwGet i =>
      obtain ⟨_, -, rfl⟩ := execPwGet_eq_next_iff.mp h
      exact State.channelAt_congr (by simp) _
    | tick i => exact absurd rfl htick

/-- A step under a strobe of a live channel's slot. -/
theorem step_strobe_channelAt {s t : State} {slot : SlotNum} {ch : Channel}
    (h : step { s with inbox := [.strobe slot] } = .next t)
    (hc : s.channelAt slot.toNat = some ch) : t.channelAt slot.toNat = some ch.strobe := by
  have hdec : decodeFor s.slots.length (.strobe slot) = .ok (.tick slot) := rfl
  have hexec : execTick slot { s with inbox := [] } = .next t :=
    (step_of_instr (s' := { s with inbox := [] }) rfl rfl hdec).symm.trans h
  obtain ⟨u, hu, hcu⟩ := execTick_of_live (s := { s with inbox := [] }) (i := slot) hc
  obtain rfl := Host.Outcome.next.inj (hu.symm.trans hexec)
  exact hcu

/-- A step under an event that spares the slot and is no strobe of it leaves the channel alone. -/
theorem step_spared_channelAt {s t : State} {slot : SlotNum} {e : PortEvent} {ch : Channel}
    (h : step { s with inbox := [e] } = .next t) (hc : s.channelAt slot.toNat = some ch)
    (hspares : e.spares slot s) (hstrobe : e ≠ .strobe slot) :
    t.channelAt slot.toNat = some ch := by
  rcases step_next_cases h with ⟨hnil, -⟩ | ⟨_, _, hinbox, hcase⟩
  · cases hnil
  cases hinbox
  rcases hcase with haccess | ⟨p, s', i, hfetch, hdec, hexec⟩
  · rw [fetchEvent_access_next haccess]
    exact hc
  have hdecode := decode_of_decodeFor hdec
  obtain ⟨u, hfetch'⟩ := fetchEvent_instr_of_any hfetch s
  obtain ⟨hduty, hwidth, hdestroy⟩ := hspares p u hfetch'
  have hc' := (State.channelAt_congr (fetchEvent_instr_slots hfetch) _).trans hc
  have htick : i ≠ .tick slot := by
    rintro rfl
    obtain rfl : PortWord.strobe slot = p := decode_eq_ok_iff.mp hdecode
    rcases fetchEvent_instr hfetch with ⟨_, rfl, ⟨⟩, -⟩ | ⟨_, ⟨⟩, -⟩
    exact hstrobe rfl
  refine exec_channelAt_of_spared hexec hc' ?_ ?_ ?_ htick
  · rintro rfl
    exact hduty hdecode
  · rintro rfl
    exact hwidth hdecode
  · rintro rfl
    exact hdestroy hdecode

/-! ### The first strobe -/

section
variable {ev : Nat → PortEvent} {run : Nat → State} {slot : SlotNum} {n : Nat} {ch : Channel}

/-- Until its slot is strobed a spared channel stays as it is. -/
theorem OpenRun.channelAt_before_strobe (hrun : OpenRun ev run)
    (hspares : ∀ m, n ≤ m → (ev m).spares slot (run m))
    (hc : (run n).channelAt slot.toNat = some ch) {m : Nat} (hm : n ≤ m)
    (hnone : ∀ j, n ≤ j → j < m → ev j ≠ .strobe slot) :
    (run m).channelAt slot.toNat = some ch := by
  induction m, hm using Nat.le_induction with
  | base => exact hc
  | succ m hm ih =>
    have hbefore := ih fun j hj hlt => hnone j hj (hlt.trans m.lt_succ_self)
    exact step_spared_channelAt (hrun m) hbefore (hspares m hm) (hnone m hm m.lt_succ_self)

/-- Fairness strobes the slot of a `Ramping` channel, and the first strobe finds the channel as it
was (R250). -/
theorem OpenRun.exists_strobe (hrun : OpenRun ev run) (hfair : FairTicks ev run)
    (hspares : ∀ m, n ≤ m → (ev m).spares slot (run m))
    (hc : (run n).channelAt slot.toNat = some ch) (hramp : ch.ramp ≠ none) :
    ∃ m, n ≤ m ∧ ev m = .strobe slot ∧ (run m).channelAt slot.toNat = some ch := by
  have hsome : ∃ m, n ≤ m ∧ ev m = .strobe slot := by
    by_contra hnever
    push Not at hnever
    obtain ⟨m, hm, hstrobe | hidle⟩ := hfair slot n
    · exact hnever m hm hstrobe
    · have hkept := hrun.channelAt_before_strobe hspares hc hm fun j hj _ => hnever j hj
      have hnone : ch.ramp = none := by simpa [State.ramping, hkept] using hidle
      exact hramp hnone
  classical
  obtain ⟨hm, hstrobe⟩ := Nat.find_spec hsome
  exact ⟨Nat.find hsome, hm, hstrobe,
    hrun.channelAt_before_strobe hspares hc hm fun j hj hlt heq =>
      Nat.find_min hsome hlt ⟨hj, heq⟩⟩

/-- What a number of strobes makes of a spared channel, a fair run makes of it in time. -/
theorem OpenRun.reaches_strobes (hrun : OpenRun ev run) (hfair : FairTicks ev run) (k : Nat)
    (hspares : ∀ m, n ≤ m → (ev m).spares slot (run m))
    (hc : (run n).channelAt slot.toNat = some ch) :
    ∃ m, n ≤ m ∧ (run m).channelAt slot.toNat = some (Channel.strobe^[k] ch) := by
  induction k generalizing n ch with
  | zero => exact ⟨n, le_rfl, hc⟩
  | succ k ih =>
    by_cases hramp : ch.ramp = none
    · rw [Channel.strobes_of_idle hramp]
      exact ⟨n, le_rfl, hc⟩
    · obtain ⟨m, hm, hstrobe, hcm⟩ := hrun.exists_strobe hfair hspares hc hramp
      have hstep := hrun m
      rw [hstrobe] at hstep
      obtain ⟨j, hj, hcj⟩ := ih (n := m + 1)
        (fun j hj => hspares j (hm.trans (m.le_succ.trans hj))) (step_strobe_channelAt hstep hcm)
      exact ⟨j, hm.trans (m.le_succ.trans hj), hcj⟩

end

/-! ### A ramp that fits its channel ends -/

/-- The target of a ramp that fits its channel is some number of steps ahead. -/
theorem Ramp.Fits.exists_ahead {ch : Channel} {r : Ramp} (h : r.Fits ch) : ∃ n, r.Ahead ch n := by
  by_cases hstep : r.step = 0
  · exact ⟨0, Ramp.ahead_zero (h.moves hstep)⟩
  · refine ⟨(r.target - ch.cur) / r.step, ?_, ?_⟩
    · have hsquare : (r.target - ch.cur) / r.step =
          r.step * (r.target - ch.cur) / (r.step * r.step) := by
        field_simp
      rw [hsquare]
      exact div_nonneg h.toward (mul_self_nonneg _)
    · rw [div_mul_cancel₀ _ hstep]
      ring

theorem Ramp.Fits.exists_strobes_reach {ch : Channel} {r : Ramp} (h : r.Fits ch)
    (hr : ch.ramp = some r) : ∃ k, Channel.strobe^[k] ch = ch.restAt r.target := by
  obtain ⟨n, hahead⟩ := h.exists_ahead
  exact ⟨⌈n⌉₊ + 1, Channel.strobes_reach ⌈n⌉₊ hr hahead (by linarith [Nat.le_ceil n])⟩

/-- Settles O53: the ramp takes a number of strobes, and a fair run brings them. -/
theorem fairRampCompletes : Obligations.FairRampCompletes := by
  intro ev run slot n ch r hrun hfair hinv hc hr hspares
  obtain ⟨k, hk⟩ := ((hinv.sound _ ch hc).ramp_fits r hr).exists_strobes_reach hr
  obtain ⟨m, hm, hcm⟩ := hrun.reaches_strobes hfair k hspares hc
  exact ⟨m, _, hm, hcm, hk⟩

end Sys2Proof.Machine
end

section
/-! PROOFS. The Servo's round trip (O55). -/

namespace Sys2Proof.Machine

/-- `PW_GET` as the host sees it, for an integer that `RESULT` can carry (R77, R184). -/
theorem hostPwGet_of_live {c : Config} {i : SlotNum} {s : State} {ch : Channel}
    (hc : s.channelAt i.toNat = some ch) (hlo : -2 ^ 47 ≤ roundQ c ch.cur)
    (hhi : roundQ c ch.cur < 2 ^ 47) :
    ∃ t, hostPwGet c i s = .next ((roundQ c ch.cur : Rat), t) := by
  have hpattern := unfix_intCast hlo hhi
  have hfix : fix (BitVec.ofInt 64 (roundQ c ch.cur * 65536)) = roundQ c ch.cur := by
    rw [fix, unfix_eq_some_iff.mp hpattern]
    norm_num
  have hrun : Command.run c s (.pwGet i) = .next (s.returnInt c (roundQ c ch.cur)).succeed :=
    onLive_of_live hc
  refine ⟨(s.returnInt c (roundQ c ch.cur)).succeed, ?_⟩
  rw [hostPwGet, hrun, andThen_next, State.succeed_result, State.returnInt_of_some c s hpattern,
    hfix]

/-- A width in `[0, period_us]` rounds to an integer that `RESULT` can carry. -/
theorem roundQ_width {c : Config} {w : Rat} (h0 : 0 ≤ w) (hw : w < 2 ^ 47 - 1 / 2) :
    -2 ^ 47 ≤ roundQ c w ∧ roundQ c w < 2 ^ 47 := by
  have hlo : 0 ≤ roundQ c w := le_roundQ (by exact_mod_cast h0)
  have hhi : (roundQ c w : Rat) < 2 ^ 47 := by
    linarith [(abs_le.mp (roundQ_near c w)).2]
  exact ⟨by omega, by exact_mod_cast hhi⟩

/-- Half a microsecond off is at most half a degree off, where 90 degrees are at least 90
microseconds; the second rounding adds half a degree more (R187). -/
theorem roundQ_angle_near {c : Config} {center angle90 a m : Rat} (hscale : 90 ≤ |angle90|)
    (hm : |m - (center + angle90 * a / 90)| ≤ 1 / 2) :
    |(roundQ c ((m - center) * 90 / angle90) : Rat) - a| ≤ 1 := by
  have hpos : 0 < |angle90| := by linarith
  have hne : angle90 ≠ 0 := abs_pos.mp hpos
  have herror : (m - center) * 90 / angle90 - a =
      (m - (center + angle90 * a / 90)) * 90 / angle90 := by
    field_simp
    ring
  have hangle : |(m - center) * 90 / angle90 - a| ≤ 1 / 2 := by
    rw [herror, abs_div, abs_mul, abs_of_pos (by norm_num : (0 : Rat) < 90), div_le_iff₀ hpos]
    linarith
  calc |(roundQ c ((m - center) * 90 / angle90) : Rat) - a|
      ≤ |(roundQ c ((m - center) * 90 / angle90) : Rat) - (m - center) * 90 / angle90| +
          |(m - center) * 90 / angle90 - a| := abs_sub_le ..
    _ ≤ 1 / 2 + 1 / 2 := add_le_add (roundQ_near c _) hangle
    _ = 1 := by norm_num

/-- Settles O55: neither clamp acts on the width, so `PW_GET` reads the width for the angle,
rounded. -/
theorem servoAngleRoundTrip : Obligations.ServoAngleRoundTrip := by
  intro c sv s ch a hc hperiod hscale width hmin hmax h0 hle
  have hne : sv.pulseAngle90 ≠ 0 := abs_pos.mp (by linarith)
  have hset : sv.angleWidth a = width := clamp_of_mem hmin hmax
  have hcur : (ch.setWidth width).cur = width := clamp_of_mem h0 hle
  have hrun : Command.run c s (servoAngleSet sv a 0) =
      .next (s.setSlot sv.slot (some (ch.setWidth width))).succeed :=
    pwSetCmd_eq_next_iff.mpr ⟨ch, hc, .inl ⟨rfl, by rw [hset]⟩⟩
  have hback := State.channelAt_setSlot_succeed hc (some (ch.setWidth width))
  obtain ⟨hlo, hhi⟩ := roundQ_width (c := c) h0 (hle.trans_lt hperiod)
  obtain ⟨u, hget⟩ := hostPwGet_of_live (c := c) hback (by rwa [hcur]) (by rwa [hcur])
  rw [hcur] at hget
  exact ⟨_, u, _, hrun, by rw [servoAngleGet, if_neg hne, hget, andThen_next],
    roundQ_angle_near hscale (roundQ_near c width)⟩

end Sys2Proof.Machine
end

section
/-! PROOFS. Ticks in a row on one slot, as a host sees them between its commands (R57, R197): what
they keep, and that a width set at once commutes with them. -/

namespace Sys2Proof.Machine

/-- A tick strobes the channel of its own slot, if there is one, and leaves every other slot
alone. -/
theorem execTick_channelAt {i : SlotNum} {s t : State} (h : execTick i s = .next t) (j : Nat) :
    t.channelAt j =
      if i.toNat = j then (s.channelAt j).map Channel.strobe else s.channelAt j := by
  split_ifs with hj
  · subst hj
    cases hc : s.channelAt i.toNat with
    | none =>
      have hidle := execTick_of_not_ramping (i := i) (s := s) (by simp [State.ramping, hc])
      obtain rfl := Host.Outcome.next.inj (hidle.symm.trans h)
      exact hc
    | some ch =>
      obtain ⟨u, hu, hcu⟩ := execTick_of_live hc
      obtain rfl := Host.Outcome.next.inj (hu.symm.trans h)
      exact hcu
  · exact (execTick_changesSlotOnly h).others j (Ne.symm hj)

/-- Ticks keep whatever a strobe keeps of a channel. -/
theorem runTicks_map_of_invariant {α : Type} {f : Channel → α} (hf : ∀ ch, f ch.strobe = f ch)
    {j : Nat} {ts : List SlotNum} {s t : State} (h : runTicks ts s = .next t) :
    (t.channelAt j).map f = (s.channelAt j).map f := by
  induction ts generalizing s with
  | nil => rw [Host.Outcome.next.inj h]
  | cons i ts ih =>
    obtain ⟨s', htick, hrest⟩ := andThen_eq_next_iff.mp h
    rw [ih hrest, execTick_channelAt htick]
    split_ifs
    · rw [Option.map_map]
      exact Option.map_congr fun ch _ => hf ch
    · rfl

/-- Two states whose slots `j` differ by a map that commutes with a strobe differ by it after the
same ticks. -/
theorem runTicks_map_of_commutes {f : Channel → Channel} (hf : ∀ ch, (f ch).strobe = f ch.strobe)
    {j : Nat} {ts : List SlotNum} {s s' t t' : State}
    (hs : s'.channelAt j = (s.channelAt j).map f) (h : runTicks ts s = .next t)
    (h' : runTicks ts s' = .next t') : t'.channelAt j = (t.channelAt j).map f := by
  induction ts generalizing s s' with
  | nil => rw [← Host.Outcome.next.inj h, ← Host.Outcome.next.inj h', hs]
  | cons i ts ih =>
    obtain ⟨u, htick, hrest⟩ := andThen_eq_next_iff.mp h
    obtain ⟨u', htick', hrest'⟩ := andThen_eq_next_iff.mp h'
    refine ih ?_ hrest hrest'
    rw [execTick_channelAt htick, execTick_channelAt htick', hs]
    split_ifs
    · rw [Option.map_map, Option.map_map]
      exact Option.map_congr fun ch _ => hf ch
    · rfl

/-- Ticks read no other slot: what they leave in one depends on what it held. -/
theorem runTicks_channelAt_congr {j : Nat} {ts : List SlotNum} {s s' t t' : State}
    (hs : s'.channelAt j = s.channelAt j) (h : runTicks ts s = .next t)
    (h' : runTicks ts s' = .next t') : t'.channelAt j = t.channelAt j := by
  have hid := runTicks_map_of_commutes (f := id) (fun _ => rfl) (by simpa using hs) h h'
  simpa using hid

end Sys2Proof.Machine
end

section
/-! PROOFS. `HB_INIT` in a two-channel mode that fails leaves every slot to the ticks (O59). -/

namespace Sys2Proof.Machine

/-- A slot array is its length and what each slot holds. -/
theorem State.slots_ext {s t : State} (hlength : s.slots.length = t.slots.length)
    (h : ∀ j, s.channelAt j = t.channelAt j) : s.slots = t.slots := by
  refine List.ext_getElem hlength fun j hs ht => ?_
  simpa [State.channelAt, hs, ht] using h j

/-- A construction that ends with an error code has written `STATUS` alone (R215). -/
theorem slots_of_failed_construct {c : Config} {i : SlotNum} {pin : Bytes} {s t : State}
    (h : Command.run c s (constructPin i pin) = .next t) (hfail : t.status ≠ 0) :
    t.slots = s.slots := by
  obtain ⟨-, -, -, -, -, rfl⟩ := constructCmd_eq_next_iff.mp h
  rcases construction_cases c i pin [] 0 0 s with ⟨e, heq, -⟩ | ⟨r, -, -, heq⟩
  · rw [heq, State.raise_slots]
  · rw [heq] at hfail
    exact absurd (State.succeed_status _) hfail

/-! ### States that differ in one slot at most -/

/-- `s` and `t` have one number of slots and agree on all of them but slot `i`. -/
structure State.AgreesOff (i : SlotNum) (s t : State) : Prop where
  length : t.slots.length = s.slots.length
  others : ∀ j, j ≠ i.toNat → t.channelAt j = s.channelAt j

theorem State.AgreesOff.trans {i : SlotNum} {s t u : State} (h : s.AgreesOff i t)
    (h' : t.AgreesOff i u) : s.AgreesOff i u where
  length := h'.length.trans h.length
  others j hj := (h'.others j hj).trans (h.others j hj)

theorem State.AgreesOff.of_slots {s t : State} (i : SlotNum) (h : t.slots = s.slots) :
    s.AgreesOff i t :=
  ⟨congrArg _ h, fun j _ => State.channelAt_congr h j⟩

theorem State.AgreesOff.slots_eq {i : SlotNum} {s t : State} (h : s.AgreesOff i t)
    (hi : t.channelAt i.toNat = s.channelAt i.toNat) : t.slots = s.slots := by
  refine State.slots_ext h.length fun j => ?_
  by_cases hj : j = i.toNat
  · rw [hj, hi]
  · exact h.others j hj

theorem runTicks_length {ts : List SlotNum} {s t : State} (h : runTicks ts s = .next t) :
    t.slots.length = s.slots.length := by
  obtain ⟨u, hu, -, hlength, -⟩ := runTicks_eq_next ts s
  rwa [Host.Outcome.next.inj (h.symm.trans hu)]

/-- The same ticks keep an agreement. -/
theorem State.AgreesOff.runTicks {i : SlotNum} {s s' t t' : State} (hs : s.AgreesOff i s')
    {ts : List SlotNum} (h : runTicks ts s = .next t) (h' : runTicks ts s' = .next t') :
    t.AgreesOff i t' where
  length := by rw [runTicks_length h', hs.length, runTicks_length h]
  others j hj := runTicks_channelAt_congr (hs.others j hj) h h'

theorem agreesOff_construct {c : Config} {i : SlotNum} {pin : Bytes} {s t : State}
    (h : Command.run c s (constructPin i pin) = .next t) : s.AgreesOff i t := by
  obtain ⟨-, -, -, -, -, rfl⟩ := constructCmd_eq_next_iff.mp h
  exact ⟨(construction_board_length ..).2, (construction_changesSlotOnly ..).others⟩

theorem agreesOff_destroy {i : SlotNum} {s t : State} (h : execDestroy i s = .next t) :
    s.AgreesOff i t :=
  ⟨(exec_board_length (i := .destroy i) h).2, (execDestroy_channelAt h).2⟩

/-! ### The two failures of `HB_INIT` -/

/-- The ticks before the first `n + 1` actions of a schedule are those before the first `n`, then
those before the next one. -/
theorem runTicks_take_add_one {between : TickSchedule} {n : Nat} {s t u : State}
    (h : runTicks (between.take n).flatten s = .next t)
    (h' : runTicks (between.getD n []) t = .next u) :
    runTicks (between.take (n + 1)).flatten s = .next u := by
  have hlast : (between[n]?.toList).flatten = between.getD n [] := by
    cases hn : between[n]? <;> simp [hn]
  rw [List.take_add_one, List.flatten_append, hlast, runTicks_append, h, andThen_next, h']

/-- How `HB_INIT` in a two-channel mode ends with an error code: the first construction fails, or
the second one does and the first is destroyed. -/
theorem bridgeInitTwo_error_cases {c : Config} {id : Nat} {mode : BridgeMode} {a b : SlotNum}
    {pinA pinB : Bytes} {between : TickSchedule} {s t : State} {code : BitVec 32}
    (h : bridgeInitTwo c id mode a b pinA pinB between s = .next (.error code, t)) :
    ∃ s₀, runTicks (between.getD 0 []) s = .next s₀ ∧
      ((Command.run c s₀ (constructPin a pinA) = .next t ∧ t.status ≠ 0) ∨
        ∃ made s₁ failed s₂, Command.run c s₀ (constructPin a pinA) = .next made ∧
          runTicks (between.getD 1 []) made = .next s₁ ∧
          Command.run c s₁ (constructPin b pinB) = .next failed ∧ failed.status ≠ 0 ∧
          runTicks (between.getD 2 []) failed = .next s₂ ∧ execDestroy a s₂ = .next t) := by
  obtain ⟨made, hfirst, h⟩ := andThen_eq_next_iff.mp h
  obtain ⟨s₀, hticks₀, hmake⟩ := andThen_eq_next_iff.mp hfirst
  refine ⟨s₀, hticks₀, ?_⟩
  split_ifs at h with hmade
  · obtain ⟨failed, hsecond, h⟩ := andThen_eq_next_iff.mp h
    obtain ⟨s₁, hticks₁, hfail⟩ := andThen_eq_next_iff.mp hsecond
    split_ifs at h with hfailed
    · cases h
    · obtain ⟨t', hundo, ht⟩ := andThen_eq_next_iff.mp h
      obtain ⟨s₂, hticks₂, hdestroy⟩ := andThen_eq_next_iff.mp hundo
      cases ht
      exact .inr ⟨made, s₁, failed, s₂, hmake, hticks₁, hfail, hfailed, hticks₂, hdestroy⟩
  · cases h
    exact .inl ⟨hmake, hmade⟩

/-- Ticks make no channel. -/
theorem runTicks_channelAt_none {j : Nat} {ts : List SlotNum} {s t : State}
    (h : runTicks ts s = .next t) (hnone : s.channelAt j = none) : t.channelAt j = none := by
  have hmap := runTicks_map_of_invariant (f := fun _ => ()) (fun _ => rfl) (j := j) h
  simpa [hnone] using hmap

/-- Settles O59: up to its destruction the first channel makes no difference to the other slots, and
its own was `Empty` before. -/
theorem failedBridgeInitIsUndone : Obligations.FailedBridgeInitIsUndone := by
  intro c id mode a b pinA pinB between s t code h
  have hticks : ∃ u, (runTicks (between.take 1).flatten s = .next u ∨
      runTicks (between.take 3).flatten s = .next u) ∧ t.slots = u.slots := by
    obtain ⟨s₀, hticks₀, ⟨hmake, hfail⟩ |
      ⟨made, s₁, failed, s₂, hmake, hticks₁, hfails, hfail, hticks₂, hdestroy⟩⟩ :=
      bridgeInitTwo_error_cases h
    · exact ⟨s₀, .inl (runTicks_take_add_one rfl hticks₀), slots_of_failed_construct hmake hfail⟩
    · obtain ⟨u₁, hu₁, -⟩ := runTicks_eq_next (between.getD 1 []) s₀
      obtain ⟨u₂, hu₂, -⟩ := runTicks_eq_next (between.getD 2 []) u₁
      have hall : runTicks (between.take 3).flatten s = .next u₂ :=
        runTicks_take_add_one (runTicks_take_add_one (runTicks_take_add_one rfl hticks₀) hu₁) hu₂
      have hfailed := State.AgreesOff.of_slots a (slots_of_failed_construct hfails hfail)
      have hagree : u₂.AgreesOff a t :=
        ((((agreesOff_construct hmake).runTicks hu₁ hticks₁).trans hfailed).runTicks hu₂
          hticks₂).trans (agreesOff_destroy hdestroy)
      obtain ⟨hempty, -⟩ := constructCmd_eq_next_iff.mp hmake
      have hnone := runTicks_channelAt_none hu₂
        (runTicks_channelAt_none hu₁ (State.channelAt_eq_of_view hempty))
      exact ⟨u₂, .inr hall, hagree.slots_eq ((execDestroy_channelAt hdestroy).1.trans hnone.symm)⟩
  refine ⟨?_, hticks⟩
  rintro rfl
  obtain ⟨u, hu, hslots⟩ := hticks
  rw [hslots]
  rcases hu with hu | hu
  · exact congrArg State.slots (Host.Outcome.next.inj hu).symm
  · exact congrArg State.slots (Host.Outcome.next.inj hu).symm

end Sys2Proof.Machine
end

section
/-! PROOFS. `HB_GO_SET` (O56, O57, O58) and `HB_GO_GET` (O60): an HBridge's program sets duties and
direction levels only, so that in each slot it leaves what its ticks alone leave, at the duty last
set there. -/

namespace Sys2Proof.Machine

/-! ### Duties and ticks -/

/-- A channel at the duty that was last set, if any was. -/
def Channel.withDuty (d : Option Rat) (ch : Channel) : Channel :=
  match d with
  | none => ch
  | some p => ch.setDuty p

@[simp] theorem Channel.withDuty_none : Channel.withDuty none = id := rfl

@[simp] theorem Channel.withDuty_some (p : Rat) : Channel.withDuty (some p) =
    Channel.setDuty p := rfl

/-- Setting a duty forgets the width and the ramp, which is all that a strobe changes. -/
theorem Channel.setDuty_strobe (p : Rat) (ch : Channel) : ch.strobe.setDuty p = ch.setDuty p := by
  cases hr : ch.ramp with
  | none => rw [Channel.strobe_of_idle hr]
  | some r =>
    rw [Channel.strobe_of_ramp hr, Channel.tick]
    split_ifs
    · rfl
    · rfl

/-- A strobe does nothing to a channel whose duty was set (R140). -/
theorem Channel.strobe_withDuty (d : Option Rat) (ch : Channel) :
    (ch.withDuty d).strobe = ch.strobe.withDuty d := by
  cases d with
  | none => rfl
  | some p => exact (Channel.strobe_of_idle rfl).trans (ch.setDuty_strobe p).symm

/-- The later of two duties counts. -/
theorem Channel.withDuty_withDuty (d e : Option Rat) (ch : Channel) :
    (ch.withDuty d).withDuty e = ch.withDuty (e.or d) := by
  cases e with
  | none => rfl
  | some q => cases d <;> rfl

/-! ### Programs of an HBridge -/

/-- The slots that an HBridge owns (R191). -/
def BridgeMode.slots : BridgeMode → List SlotNum
  | .oneSpeed _ a => [a]
  | .runCoast a b => [a, b]
  | .runBrake a b => [a, b]

/-- An action of an HBridge that owns the slots `is`: a level, or a `DUTY_SET` of one of them. -/
def HostAction.DrivesOnly (is : List SlotNum) : HostAction → Prop
  | .dir _ _ => True
  | .cmd (.dutySet i _) => i ∈ is
  | .cmd _ => False

/-- The duty that an action sets in slot number `j`. -/
def HostAction.dutyOn (j : Nat) : HostAction → Option Rat
  | .cmd (.dutySet i p) => if i.toNat = j then some p else none
  | _ => none

@[simp] theorem HostAction.dutyOn_dutySet (i k : SlotNum) (p : Rat) :
    (HostAction.cmd (.dutySet i p)).dutyOn k.toNat = if i = k then some p else none := by
  simp only [HostAction.dutyOn, BitVec.toNat_inj]

@[simp] theorem HostAction.dutyOn_dir (j : Nat) (pin : Bytes) (level : PinLevel) :
    (HostAction.dir pin level).dutyOn j = none := rfl

/-- The level of the direction pin after an action. -/
def HostAction.levelAfter (level : PinLevel) : HostAction → PinLevel
  | .dir _ new => new
  | .cmd _ => level

/-- The duty that a program sets last in slot number `j`. -/
def lastDuty (j : Nat) : List HostAction → Option Rat
  | [] => none
  | act :: rest => (lastDuty j rest).or (act.dutyOn j)

/-- The slots of a list are live. -/
def State.LiveOn (is : List SlotNum) (s : State) : Prop :=
  ∀ i ∈ is, (s.channelAt i.toNat).isSome = true

/-- Ticks keep slots live. -/
theorem State.LiveOn.runTicks {is : List SlotNum} {ts : List SlotNum} {s t : State}
    (hs : s.LiveOn is) (h : runTicks ts s = .next t) : t.LiveOn is := by
  intro i hi
  have hmap := runTicks_map_of_invariant (f := fun _ => ()) (fun _ => rfl) (j := i.toNat) h
  have hsome := congrArg Option.isSome hmap
  rw [Option.isSome_map, Option.isSome_map] at hsome
  rw [hsome, hs i hi]

theorem lastDuty_eq_none {is : List SlotNum} {acts : List HostAction} {j : Nat}
    (hacts : ∀ act ∈ acts, act.DrivesOnly is) (hj : ∀ i ∈ is, j ≠ i.toNat) :
    lastDuty j acts = none := by
  induction acts with
  | nil => rfl
  | cons act rest ih =>
    have hact := hacts act (by simp)
    have hnone : act.dutyOn j = none := by
      match act, hact with
      | .dir _ _, _ => rfl
      | .cmd (.dutySet i _), hi => exact if_neg (hj i hi).symm
    rw [lastDuty, ih fun act h => hacts act (by simp [h]), hnone, Option.none_or]

/-- One action of an HBridge on its live slots. -/
theorem HostAction.run_of_drivesOnly (c : Config) {is : List SlotNum} {act : HostAction}
    (hact : act.DrivesOnly is) (level : PinLevel) {s : State} (hlive : s.LiveOn is) :
    ∃ t, act.run c (level, s) = .next (act.levelAfter level, t) ∧
      ∀ j, t.channelAt j = (s.channelAt j).map (Channel.withDuty (act.dutyOn j)) := by
  match act, hact with
  | .dir _ _, _ => exact ⟨s, rfl, fun j => by simp [HostAction.dutyOn]⟩
  | .cmd (.dutySet i p), hi =>
    obtain ⟨ch, hc⟩ := Option.isSome_iff_exists.mp (hlive i hi)
    have hrun : Command.run c s (.dutySet i p) =
        .next (s.setSlot i (some (ch.setDuty p))).succeed := onLive_of_live hc
    refine ⟨_, by rw [HostAction.run, hrun, andThen_next]; rfl, fun j => ?_⟩
    by_cases hj : i.toNat = j
    · subst hj
      rw [State.channelAt_setSlot_succeed hc, hc]
      simp [HostAction.dutyOn]
    · rw [(State.changesSlotOnly_setSlot_succeed s i _).others j (Ne.symm hj)]
      simp [HostAction.dutyOn, hj]

/-- A program of an HBridge completes, and leaves each slot as its ticks alone leave it, at the duty
last set there (R197). -/
theorem runActions_of_drivesOnly (c : Config) {is : List SlotNum} {acts : List HostAction}
    (hacts : ∀ act ∈ acts, act.DrivesOnly is) (between : TickSchedule) (level : PinLevel)
    {s : State} (hlive : s.LiveOn is) :
    ∃ t u, runActions c acts between (level, s) =
        .next (acts.foldl HostAction.levelAfter level, t) ∧
      runTicks (between.take acts.length).flatten s = .next u ∧
      ∀ j, t.channelAt j = (u.channelAt j).map (Channel.withDuty (lastDuty j acts)) := by
  induction acts generalizing between level s with
  | nil => exact ⟨s, s, rfl, rfl, fun j => by simp [lastDuty]⟩
  | cons act rest ih =>
    obtain ⟨ticked, hticked, -⟩ := runTicks_eq_next (between.headD []) s
    have hliveTicked := hlive.runTicks hticked
    obtain ⟨acted, hrun, hacted⟩ :=
      HostAction.run_of_drivesOnly c (hacts act (by simp)) level hliveTicked
    have hliveActed : acted.LiveOn is := fun i hi => by
      rw [hacted, Option.isSome_map, hliveTicked i hi]
    obtain ⟨t, v, hrest, hv, ht⟩ :=
      ih (fun act h => hacts act (by simp [h])) between.tail (act.levelAfter level) hliveActed
    obtain ⟨u, hu, -⟩ := runTicks_eq_next (between.tail.take rest.length).flatten ticked
    refine ⟨t, u, ?_, ?_, fun j => ?_⟩
    · rw [runActions, hticked, andThen_next, hrun, andThen_next, hrest, List.foldl_cons]
    · have hsplit : (between.take (rest.length + 1)).flatten =
          between.headD [] ++ (between.tail.take rest.length).flatten := by
        cases between <;> simp
      rw [List.length_cons, hsplit, runTicks_append, hticked, andThen_next, hu]
    · have hcommutes := runTicks_map_of_commutes (Channel.strobe_withDuty _) (hacted j) hu hv
      rw [ht, hcommutes, Option.map_map, lastDuty]
      exact Option.map_congr fun ch _ => ch.withDuty_withDuty _ _

/-- A slot that was live at the start ends at the duty that the program sets last in it. -/
theorem channelAt_of_lastDuty {acts : List HostAction} {ts : List SlotNum} {s t u : State} {j : Nat}
    {ch : Channel} {p : Rat} (hu : runTicks ts s = .next u)
    (ht : t.channelAt j = (u.channelAt j).map (Channel.withDuty (lastDuty j acts)))
    (hc : s.channelAt j = some ch) (hlast : lastDuty j acts = some p) :
    t.channelAt j = some (ch.setDuty p) := by
  have hkeeps := runTicks_map_of_invariant (Channel.setDuty_strobe p) (j := j) hu
  rw [hc] at hkeeps
  rw [ht, hlast]
  exact hkeeps

theorem Channel.setDuty_of_percent {ch : Channel} {p : Rat} (h0 : 0 ≤ p) (h100 : p ≤ 100) :
    ch.setDuty p = { ch with cur := p * ch.periodUs / 100, ramp := none } := by
  rw [Channel.setDuty, clamp_of_mem h0 h100]

/-! ### The zeroing -/

theorem BridgeMode.zeroing_drivesOnly (mode : BridgeMode) :
    ∀ act ∈ mode.zeroing, act.DrivesOnly mode.slots := by
  cases mode <;> simp [BridgeMode.zeroing, BridgeMode.slots, HostAction.DrivesOnly]

theorem BridgeMode.lastDuty_zeroing {mode : BridgeMode} {i : SlotNum} (hi : i ∈ mode.slots) :
    lastDuty i.toNat mode.zeroing = some 0 := by
  cases mode with
  | oneSpeed dirPin a =>
    obtain rfl := List.mem_singleton.mp hi
    simp [BridgeMode.zeroing, lastDuty]
  | runCoast a b | runBrake a b =>
    rcases List.mem_pair.mp hi with rfl | rfl
    · by_cases hab : b = i <;> simp [BridgeMode.zeroing, lastDuty, hab]
    · simp [BridgeMode.zeroing, lastDuty]

/-- The zeroing completes with every output of the HBridge at 0 (R192). -/
theorem BridgeMode.runActions_zeroing (c : Config) (mode : BridgeMode) (between : TickSchedule)
    (level : PinLevel) {s : State} (hlive : s.LiveOn mode.slots) :
    ∃ z, runActions c mode.zeroing between (level, s) =
        .next (mode.zeroing.foldl HostAction.levelAfter level, z) ∧
      ∀ i ∈ mode.slots, z.compareOut i.toNat = some 0 := by
  obtain ⟨z, u, hrun, hu, hz⟩ :=
    runActions_of_drivesOnly c mode.zeroing_drivesOnly between level hlive
  refine ⟨z, hrun, fun i hi => ?_⟩
  obtain ⟨ch, hc⟩ := Option.isSome_iff_exists.mp (hlive i hi)
  rw [State.compareOut, channelAt_of_lastDuty hu (hz i.toNat) hc (BridgeMode.lastDuty_zeroing hi),
    Channel.setDuty_of_percent le_rfl (by norm_num)]
  simp

/-! ### The whole of `HB_GO_SET` -/

theorem BridgeMode.driving_drivesOnly (level : PinLevel) (reverseOn : Bool) (v : Rat)
    (mode : BridgeMode) : ∀ act ∈ mode.driving level reverseOn v, act.DrivesOnly mode.slots := by
  cases mode with
  | oneSpeed dirPin a => simp [BridgeMode.driving, BridgeMode.slots, HostAction.DrivesOnly]
  | runCoast a b =>
    rw [BridgeMode.driving]
    split_ifs <;> simp [BridgeMode.slots, HostAction.DrivesOnly]
  | runBrake a b =>
    rw [BridgeMode.driving]
    split_ifs <;> simp [BridgeMode.slots, HostAction.DrivesOnly]

theorem HBridge.goActions_drivesOnly (c : Config) (hb : HBridge) (speed : Rat) :
    ∀ act ∈ hb.goActions c speed, act.DrivesOnly hb.mode.slots := fun act hact =>
  (List.mem_append.mp hact).elim (hb.mode.zeroing_drivesOnly act)
    (hb.mode.driving_drivesOnly _ _ _ act)

theorem HBridge.take_goActions (c : Config) (hb : HBridge) (speed : Rat) :
    (hb.goActions c speed).take 2 = hb.mode.zeroing := by
  rw [HBridge.goActions]
  cases hb.mode <;> rfl

/-- `HB_GO_SET` on an HBridge whose slots are live, whatever ticks come between its actions: each of
its slots ends at the percentage that is set last in it, and the ticks alone act on the others. -/
theorem bridgeGoSet_of_live (c : Config) (hb : HBridge) (speed : Rat) (between : TickSchedule)
    {s : State} (hlive : s.LiveOn hb.mode.slots) :
    ∃ hb' t u, bridgeGoSet c hb speed between s = .next (hb', t) ∧
      hb'.last = some (clamp speed (-100) 100) ∧
      runActions c (hb.goActions c speed) between (hb.dir, s) = .next (hb'.dir, t) ∧
      hb'.dir = (hb.goActions c speed).foldl HostAction.levelAfter hb.dir ∧
      (∀ j ch p, s.channelAt j = some ch → lastDuty j (hb.goActions c speed) = some p →
        0 ≤ p ∧ p ≤ 100 →
        t.channelAt j = some { ch with cur := p * ch.periodUs / 100, ramp := none }) ∧
      runTicks (between.take (hb.goActions c speed).length).flatten s = .next u ∧
      ∀ j, (∀ i ∈ hb.mode.slots, j ≠ i.toNat) → t.channelAt j = u.channelAt j := by
  have hacts := hb.goActions_drivesOnly c speed
  obtain ⟨t, u, hrun, hu, ht⟩ := runActions_of_drivesOnly c hacts between hb.dir hlive
  refine ⟨_, t, u, bridgeGoSet_eq_next_iff.mpr ⟨_, hrun, rfl⟩, rfl, hrun, rfl,
    fun j ch p hc hlast hp => ?_, hu, fun j hj => ?_⟩
  · rw [channelAt_of_lastDuty hu (ht j) hc hlast, Channel.setDuty_of_percent hp.1 hp.2]
  · rw [ht, lastDuty_eq_none hacts hj, Channel.withDuty_none, Option.map_id, id]

/-- The speed after its clamp is a percentage by its magnitude (R192). -/
theorem abs_clamp_speed_le (speed : Rat) : |clamp speed (-100) 100| ≤ 100 :=
  abs_le.mpr (clamp_mem (by norm_num))

/-! ### One channel and a direction pin -/

/-- The program of a `ONE_SPEED` HBridge: which level it sets last is free at speed 0 (R193). -/
theorem HBridge.goActions_oneSpeed (c : Config) {hb : HBridge} {dirPin : Bytes} {a : SlotNum}
    (speed : Rat) (hmode : hb.mode = .oneSpeed dirPin a) :
    ∃ level, hb.goActions c speed = [.dir dirPin .low, .cmd (.dutySet a 0), .dir dirPin level,
        .cmd (.dutySet a |clamp speed (-100) 100|)] ∧
      (0 < clamp speed (-100) 100 → level = .high) ∧
      (clamp speed (-100) 100 < 0 → level = .low) := by
  refine ⟨if 0 < clamp speed (-100) 100 then .high
    else if clamp speed (-100) 100 < 0 then .low else c.freeLevel hb.id hb.freeIndex,
    ?_, fun h => if_pos h, fun h => (if_neg h.not_gt).trans (if_pos h)⟩
  rw [HBridge.goActions, hmode, BridgeMode.zeroing, BridgeMode.driving, absQ_eq_abs]
  rfl

/-- Settles O56: of the four actions the last one sets the duty and the one before it the level. -/
theorem oneSpeedBridge : Obligations.OneSpeedBridge := by
  intro c hb dirPin a s ch speed between hmode hc v
  have hslots : hb.mode.slots = [a] := by rw [hmode, BridgeMode.slots]
  have hzeroing : hb.mode.zeroing = [.dir dirPin .low, .cmd (.dutySet a 0)] := by
    rw [hmode, BridgeMode.zeroing]
  have hlive : s.LiveOn hb.mode.slots := by simp [State.LiveOn, hslots, hc]
  obtain ⟨level, hacts, hpos, hneg⟩ := HBridge.goActions_oneSpeed c speed hmode
  obtain ⟨z, hz, hzero⟩ := hb.mode.runActions_zeroing c between hb.dir hlive
  obtain ⟨hb', t, u, hgo, hlast, hrun, hdir, hslot, hu, hframe⟩ :=
    bridgeGoSet_of_live c hb speed between hlive
  have hlevel : hb'.dir = level := by
    rw [hdir, hacts]
    rfl
  have hduty : lastDuty a.toNat (hb.goActions c speed) = some |v| := by
    simp [hacts, lastDuty, v]
  refine ⟨hb.take_goActions c speed, hzeroing, ⟨z, ?_, hzero a (by simp [hslots])⟩, ?_,
    hb', t, u, hgo, hlast, hrun, fun h => hlevel.trans (hpos h), fun h => hlevel.trans (hneg h),
    hslot _ ch |v| hc hduty ⟨abs_nonneg v, abs_clamp_speed_le speed⟩, hu,
    fun j hj => hframe j (by simpa [hslots] using hj)⟩
  · rw [hz, hzeroing]
    rfl
  · intro pin new hmem
    have hdirs : (pin = dirPin ∧ new = .low) ∨ (pin = dirPin ∧ new = level) := by
      simpa [hacts] using hmem
    exact hdirs.elim And.left And.left

/-! ### Two channels -/

/-- `HB_GO_SET` on an HBridge that owns two live slots, in terms of the percentages that its program
sets last in them. -/
theorem bridgeGoSet_two_channels (c : Config) {hb : HBridge} {a b : SlotNum} {s : State}
    {cha chb : Channel} {speed p q : Rat} (between : TickSchedule) (hslots : hb.mode.slots = [a, b])
    (hzeroing : hb.mode.zeroing = [.cmd (.dutySet a 0), .cmd (.dutySet b 0)])
    (hca : s.channelAt a.toNat = some cha) (hcb : s.channelAt b.toNat = some chb)
    (hlastA : lastDuty a.toNat (hb.goActions c speed) = some p) (hp : 0 ≤ p ∧ p ≤ 100)
    (hlastB : lastDuty b.toNat (hb.goActions c speed) = some q) (hq : 0 ≤ q ∧ q ≤ 100) :
    (hb.goActions c speed).take 2 = hb.mode.zeroing ∧
    hb.mode.zeroing = [.cmd (.dutySet a 0), .cmd (.dutySet b 0)] ∧
    (∃ l z, runActions c hb.mode.zeroing between (hb.dir, s) = .next (l, z) ∧
      z.compareOut a.toNat = some 0 ∧ z.compareOut b.toNat = some 0) ∧
    ∃ hb' t u, bridgeGoSet c hb speed between s = .next (hb', t) ∧
      hb'.last = some (clamp speed (-100) 100) ∧
      runActions c (hb.goActions c speed) between (hb.dir, s) = .next (hb'.dir, t) ∧
      t.channelAt a.toNat = some { cha with cur := p * cha.periodUs / 100, ramp := none } ∧
      t.channelAt b.toNat = some { chb with cur := q * chb.periodUs / 100, ramp := none } ∧
      runTicks (between.take (hb.goActions c speed).length).flatten s = .next u ∧
      ∀ j, j ≠ a.toNat → j ≠ b.toNat → t.channelAt j = u.channelAt j := by
  have hlive : s.LiveOn hb.mode.slots := by simp [State.LiveOn, hslots, hca, hcb]
  obtain ⟨z, hz, hzero⟩ := hb.mode.runActions_zeroing c between hb.dir hlive
  obtain ⟨hb', t, u, hgo, hlast, hrun, -, hslot, hu, hframe⟩ :=
    bridgeGoSet_of_live c hb speed between hlive
  exact ⟨hb.take_goActions c speed, hzeroing,
    ⟨_, z, hz, hzero a (by simp [hslots]), hzero b (by simp [hslots])⟩,
    hb', t, u, hgo, hlast, hrun, hslot _ cha p hca hlastA hp, hslot _ chb q hcb hlastB hq, hu,
    fun j hja hjb => hframe j (by simp [hslots, hja, hjb])⟩

/-- The forward share of a percentage by magnitude is a percentage. -/
theorem max_zero_percent {v : Rat} (h : |v| ≤ 100) : 0 ≤ max v 0 ∧ max v 0 ≤ 100 :=
  ⟨le_max_right v 0, max_le ((le_abs_self v).trans h) (by norm_num)⟩

/-- The duties that the program of a `RUN_COAST` HBridge sets last (R194). -/
theorem HBridge.lastDuty_runCoast (c : Config) {hb : HBridge} {a b : SlotNum} (speed : Rat)
    (hmode : hb.mode = .runCoast a b) (hab : a ≠ b) :
    lastDuty a.toNat (hb.goActions c speed) = some (max (clamp speed (-100) 100) 0) ∧
      lastDuty b.toNat (hb.goActions c speed) = some (max (-clamp speed (-100) 100) 0) := by
  rw [HBridge.goActions, hmode, BridgeMode.zeroing, BridgeMode.driving, absQ_eq_abs]
  generalize clamp speed (-100) 100 = v
  rcases lt_trichotomy v 0 with hneg | rfl | hpos
  · simp [lastDuty, hab, hab.symm, hneg, hneg.le, hneg.not_gt, abs_of_neg hneg]
  · simp [lastDuty, hab, hab.symm]
  · simp [lastDuty, hab, hab.symm, hpos, hpos.le, abs_of_pos hpos]

/-- Settles O57. -/
theorem runCoastBridge : Obligations.RunCoastBridge := by
  intro c hb a b s cha chb speed between hmode hab hca hcb v
  have hv : |v| ≤ 100 := abs_clamp_speed_le speed
  obtain ⟨hlastA, hlastB⟩ := HBridge.lastDuty_runCoast c speed hmode hab
  exact bridgeGoSet_two_channels c between (by rw [hmode, BridgeMode.slots])
    (by rw [hmode, BridgeMode.zeroing]) hca hcb hlastA (max_zero_percent hv) hlastB
    (max_zero_percent (by rwa [abs_neg]))

/-- The duties that the program of a `RUN_BRAKE` HBridge sets last: at speed 0 both are 100,
whichever channel is written second (R195). -/
theorem HBridge.lastDuty_runBrake (c : Config) {hb : HBridge} {a b : SlotNum} (speed : Rat)
    (hmode : hb.mode = .runBrake a b) (hab : a ≠ b) :
    lastDuty a.toNat (hb.goActions c speed) = some (100 - max (clamp speed (-100) 100) 0) ∧
      lastDuty b.toNat (hb.goActions c speed) =
        some (100 - max (-clamp speed (-100) 100) 0) := by
  rw [HBridge.goActions, hmode, BridgeMode.zeroing, BridgeMode.driving, absQ_eq_abs]
  generalize clamp speed (-100) 100 = v
  generalize c.freeReverseOn hb.id hb.freeIndex = reverseOn
  rcases lt_trichotomy v 0 with hneg | rfl | hpos
  · simp [lastDuty, hab, hab.symm, hneg, hneg.le, abs_of_neg hneg]
  · cases reverseOn <;> simp [lastDuty, hab, hab.symm]
  · simp [lastDuty, hab, hab.symm, hpos.le, hpos.not_gt, hpos.ne', abs_of_pos hpos]

/-- Settles O58. -/
theorem runBrakeBridge : Obligations.RunBrakeBridge := by
  intro c hb a b s cha chb speed between hmode hab hca hcb v
  have hv : |v| ≤ 100 := abs_clamp_speed_le speed
  obtain ⟨hlastA, hlastB⟩ := HBridge.lastDuty_runBrake c speed hmode hab
  have hforward := max_zero_percent hv
  have hreverse := max_zero_percent (v := -v) (by rwa [abs_neg])
  exact bridgeGoSet_two_channels c between (by rw [hmode, BridgeMode.slots])
    (by rw [hmode, BridgeMode.zeroing]) hca hcb hlastA ⟨by linarith, by linarith⟩ hlastB
    ⟨by linarith, by linarith⟩

/-! ### `HB_GO_GET` -/

/-- Settles O60. -/
theorem lastSpeedIsReturned : Obligations.LastSpeedIsReturned := by
  refine ⟨fun _ _ _ => rfl, fun c hb hb' s t speed between h => ?_⟩
  obtain ⟨level, -, rfl⟩ := bridgeGoSet_eq_next_iff.mp h
  rfl

end Sys2Proof.Machine
end

section
/-! PROOFS. Ticks of different slots commute (R220, O51): a tick is a map at its own place of the slot
array, and maps at different places may be taken in either order. -/

namespace Sys2Proof.Machine

/-- The state after a strobe of slot `i`: the channel there, if there is one, is strobed. -/
def State.strobeSlot (i : SlotNum) (s : State) : State :=
  { s with slots := s.slots.modify i.toNat (Option.map Channel.strobe) }

/-- A strobe of a slot that holds what a strobe leaves, or of no slot, changes nothing. -/
theorem State.strobeSlot_of_fixed {i : SlotNum} {s : State}
    (h : ∀ x, s.slots[i.toNat]? = some x → x.map Channel.strobe = x) : s.strobeSlot i = s := by
  have hslots : s.slots.modify i.toNat (Option.map Channel.strobe) = s.slots := by
    refine List.ext_getElem? fun j => ?_
    rw [List.getElem?_modify]
    refine (Option.map_congr fun x hx => ?_).trans Option.map_id'
    split_ifs with hj
    · subst hj
      exact h x hx
    · rfl
  rw [State.strobeSlot, hslots]

/-- A strobe of a live channel's slot writes the strobed channel back. -/
theorem State.strobeSlot_of_live {i : SlotNum} {s : State} {ch : Channel}
    (hc : s.channelAt i.toNat = some ch) : s.strobeSlot i = s.setSlot i (some ch.strobe) := by
  have hslot : s.slots[i.toNat]? = some (some ch) := Option.join_eq_some_iff.mp hc
  rw [State.strobeSlot, List.modify_eq_set_getElem?, hslot]
  rfl

/-- A tick always completes (R164), and strobes the channel of its own slot (R80, R156). -/
theorem execTick_eq_next_strobeSlot (i : SlotNum) (s : State) :
    execTick i s = .next (s.strobeSlot i) := by
  rcases execTick_eq_next i s with ⟨ch, r, hc, hr, heq⟩ | ⟨hidle, heq⟩
  · rw [heq, State.strobeSlot_of_live hc, Channel.strobe_of_ramp hr]
  · rw [heq, State.strobeSlot_of_fixed]
    rintro (_ | ch) hslot
    · rfl
    · have hramp : ch.ramp = none := by simpa [State.ramping, State.channelAt, hslot] using hidle
      rw [Option.map_some, Channel.strobe_of_idle hramp]

/-- Strobes of different slots may be taken in either order. -/
theorem State.strobeSlot_comm {a b : SlotNum} (h : a ≠ b) (s : State) :
    (s.strobeSlot a).strobeSlot b = (s.strobeSlot b).strobeSlot a := by
  have hne : a.toNat ≠ b.toNat := fun hab => h (BitVec.eq_of_toNat_eq hab)
  simp only [State.strobeSlot, List.modify_modify_ne _ _ _ hne]

/-- Settles O51. -/
theorem ticksOfDifferentSlotsCommute : Obligations.TicksOfDifferentSlotsCommute := by
  intro s a b hab
  refine ⟨_, _, _, execTick_eq_next_strobeSlot a s, execTick_eq_next_strobeSlot b _,
    execTick_eq_next_strobeSlot b s, ?_⟩
  rw [State.strobeSlot_comm hab]
  exact execTick_eq_next_strobeSlot a _

end Sys2Proof.Machine
end

section
/-! PROOFS. A fair open run with finitely many commands ends (R251, O54): without commands every ramp
completes and none is started, so each of the at most 16 slots comes to rest for good. -/

namespace Sys2Proof.Machine

/-! ### Events that are no commands -/

/-- An event that is no command brings the decoder a strobe or nothing (R70, R80). -/
theorem fetchEvent_instr_of_not_command {e : PortEvent} {s s' : State} {p : PortWord}
    (he : e.isCommand = false) (h : fetchEvent e s = .instr p s') :
    ∃ i, e = .strobe i ∧ p = .strobe i ∧ s' = s := by
  rcases fetchEvent_instr h with hstrobe | ⟨w, rfl, -⟩
  · exact hstrobe
  · obtain rfl := fetchEvent_command h
    cases he

theorem PortEvent.spares_of_not_command {e : PortEvent} (he : e.isCommand = false) (slot : SlotNum)
    (s : State) : e.spares slot s := by
  intro p s' h
  obtain ⟨i, -, rfl, -⟩ := fetchEvent_instr_of_not_command he h
  simp [decode]

/-! ### No tick is enabled without a command -/

theorem State.ramping_congr {s t : State} {j : Nat} (h : s.channelAt j = t.channelAt j) :
    s.ramping j = t.ramping j := by
  rw [State.ramping, State.ramping, h]

theorem execTick_keeps_not_ramping {i : SlotNum} {s t : State} {j : Nat}
    (h : execTick i s = .next t) (hidle : s.ramping j = false) : t.ramping j = false := by
  by_cases hj : j = i.toNat
  · subst hj
    obtain rfl := Host.Outcome.next.inj ((execTick_of_not_ramping hidle).symm.trans h)
    exact hidle
  · exact (State.ramping_congr ((execTick_changesSlotOnly h).others j hj)).trans hidle

/-- Only a command starts a ramp (R153). -/
theorem step_keeps_not_ramping {s t : State} {e : PortEvent} {j : Nat}
    (h : step { s with inbox := [e] } = .next t) (he : e.isCommand = false)
    (hidle : s.ramping j = false) : t.ramping j = false := by
  rcases step_next_cases h with ⟨hnil, -⟩ | ⟨_, _, hinbox, hcase⟩
  · cases hnil
  cases hinbox
  rcases hcase with haccess | ⟨p, s', i, hfetch, hdec, hexec⟩
  · rw [fetchEvent_access_next haccess]
    exact hidle
  · obtain ⟨slot, rfl, rfl, rfl⟩ := fetchEvent_instr_of_not_command he hfetch
    obtain rfl : Instr.tick slot = i := Except.ok.inj hdec
    exact execTick_keeps_not_ramping hexec hidle

/-! ### Open runs -/

section
variable {ev : Nat → PortEvent} {run : Nat → State} {n : Nat}

theorem OpenRun.inv (hrun : OpenRun ev run) (hinv : (run 0).Inv) (m : Nat) : (run m).Inv := by
  induction m with
  | zero => exact hinv
  | succ m ih =>
    have hready : State.Inv { run m with inbox := [ev m] } :=
      ih.of_fields rfl rfl rfl ih.status_code ih.inverted_bit
    exact stepKeepsInvariant _ _ hready (hrun m)

/-- A slot at rest after the last command stays at rest. -/
theorem OpenRun.stays_not_ramping (hrun : OpenRun ev run) (hlast : NoCommandFrom ev n) {j k : Nat}
    (hk : n ≤ k) (hidle : (run k).ramping j = false) {m : Nat} (hm : k ≤ m) :
    (run m).ramping j = false := by
  induction m, hm using Nat.le_induction with
  | base => exact hidle
  | succ m hm ih => exact step_keeps_not_ramping (hrun m) (hlast m (hk.trans hm)) ih

/-- After the last command a fair run brings each slot to rest: a ramp completes (R250). -/
theorem OpenRun.reaches_not_ramping (hrun : OpenRun ev run) (hfair : FairTicks ev run)
    (hinv : (run n).Inv) (hlast : NoCommandFrom ev n) (slot : SlotNum) :
    ∃ k, n ≤ k ∧ (run k).ramping slot.toNat = false := by
  cases hc : (run n).channelAt slot.toNat with
  | none => exact ⟨n, le_rfl, by simp [State.ramping, hc]⟩
  | some ch =>
    cases hr : ch.ramp with
    | none => exact ⟨n, le_rfl, State.ramping_of_idle hc hr⟩
    | some r =>
      obtain ⟨k, _, hk, hck, rfl⟩ := fairRampCompletes ev run slot n ch r hrun hfair hinv hc hr
        fun m hm => PortEvent.spares_of_not_command (hlast m hm) slot (run m)
      exact ⟨k, hk, State.ramping_of_idle hck rfl⟩

/-- The slots that slot numbers name are all that a block has (R6). -/
theorem State.Inv.quiet_of_slots {s : State} (hs : s.Inv)
    (h : ∀ i : Fin 16, s.ramping i = false) : s.quiet := by
  intro j
  by_cases hj : j < 16
  · exact h ⟨j, hj⟩
  · have habsent : s.slots[j]? = none :=
      List.getElem?_eq_none (hs.slot_count.2.trans (not_lt.mp hj))
    simp [State.ramping, State.channelAt, habsent]

/-- After the last command a fair run comes to a state in which no tick is enabled: the latest of the
slots to come to rest finds the others at rest. -/
theorem OpenRun.reaches_quiet (hrun : OpenRun ev run) (hfair : FairTicks ev run)
    (hinv : (run 0).Inv) (hlast : NoCommandFrom ev n) : ∃ m, n ≤ m ∧ (run m).quiet := by
  have hslot : ∀ i : Fin 16, ∀ᶠ m in Filter.atTop, (run m).ramping i = false := fun i => by
    obtain ⟨k, hk, hidle⟩ :=
      hrun.reaches_not_ramping hfair (hrun.inv hinv n) hlast (BitVec.ofFin i)
    exact Filter.eventually_atTop.mpr ⟨k, fun m hm => hrun.stays_not_ramping hlast hk hidle hm⟩
  obtain ⟨m, hrest, hm⟩ :=
    ((Filter.eventually_all.mpr hslot).and (Filter.eventually_ge_atTop n)).exists
  exact ⟨m, hm, (hrun.inv hinv m).quiet_of_slots hrest⟩

end

/-- Settles O54: a state is reached in which the run has ended, and so there is a first one. -/
theorem fairRunEnds : Obligations.FairRunEnds := by
  intro ev run n hrun hfair hinv hlast
  obtain ⟨m, hm, hquiet⟩ := hrun.reaches_quiet hfair hinv hlast
  have hended : ∃ m, NoCommandFrom ev m ∧ (run m).quiet :=
    ⟨m, fun j hj => hlast j (hm.trans hj), hquiet⟩
  classical
  exact ⟨Nat.find hended, Nat.find_spec hended, fun _ hlt => Nat.find_min hended hlt⟩

end Sys2Proof.Machine
end
